-- ==== Sys2Proof/Word.lean ====
section
/-! DEFINITION. The widths of this machine's values (10_state.md R21, R23, R24, 30_encoding.md R71, R72). Every value is an unsigned number (00_scope.md R10). -/

namespace Sys2Proof

/-- A register value, an immediate or a memory byte: 8 bits (R10). -/
abbrev Byte := BitVec 8

/-- The index register, the program counter, a stack entry or an instruction word: 16 bits (R23, R24, R27, R70). -/
abbrev Word := BitVec 16

/-- The 12-bit address field NNN of a word (R71). -/
abbrev Addr12 := BitVec 12

/-- The number of a general register, 0 to 15: every value is legal (R21, R72). -/
abbrev Reg := Fin 16

/-- The code of a logical key, 0x0 to 0xF (R32). -/
abbrev Key := Fin 16

/-- VF is V[15], the only flag of the machine (00_scope.md R11, 10_state.md R22). -/
abbrev VF : Reg := 15

end Sys2Proof
end

