-- ==== Sys2Proof/Config.lean ====
section
/-! DEFINITION. What is fixed for one machine: the parameters of 00_scope.md R7, the three of them that the spec leaves open (DT_DECAY, RESET_FILL, KEY_RANGE_POLICY) as one immutable record (R6, R8), and the free inputs of a step (R16). -/

namespace Sys2Proof.Config

/-- MEM_SIZE: the bytes of memory (R7). -/
abbrev memSize : Nat := 4096

/-- PROG_BASE: the load address and the PC of a new machine (R7). -/
abbrev progBase : Nat := 0x200

/-- PROG_MAX: the largest program image in bytes (R7). -/
abbrev progMax : Nat := 1024

/-- STACK_DEPTH: the entries of the return-address stack (R7), the length of State.stack. -/
abbrev stackDepth : Nat := 16

/-- FB_H: the rows of the framebuffer (R7), as in State.fb. -/
abbrev fbRows : Nat := 32

/-- FB_W: the columns of the framebuffer (R7), as in State.fb. -/
abbrev fbCols : Nat := 64

/-- NUM_V: the general registers (R7), the length of State.v. -/
abbrev numV : Nat := 16

/-- NUM_KEYS: the logical keys (R7). -/
abbrev numKeys : Nat := 16

/-- INSN_BYTES: the bytes of an instruction (R7, R70). -/
abbrev insnBytes : Nat := 2

/-- DT_DECAY: the source of the delay timer's decay (R7, 40_engine.md R95, 10_state.md R47, decision D18). -/
inductive DtDecay where
  | perStep
  | hostTick
deriving DecidableEq, Repr

/-- KEY_RANGE_POLICY: what Ex9E and ExA1 do with a key code of 16 or more (R7, 44_input_timers.md R162, decision D12). -/
inductive KeyRangePolicy where
  | notPressed
  | fault
deriving DecidableEq, Repr

/-- RESET_FILL: what the state that the source leaves unset holds in a new machine (R7, 10_state.md R38, decision D5). -/
inductive ResetFill where
  | zero
  | arbitrary
deriving DecidableEq, Repr

/-- The open parameters of the configuration record, fixed for the life of a machine instance (R6). -/
structure Params where
  dtDecay   : DtDecay
  keyRange  : KeyRangePolicy
  resetFill : ResetFill
deriving DecidableEq, Repr

/-- The values this hardware takes (R7, column "value"). -/
def Params.default : Params := ⟨.perStep, .notPressed, .zero⟩

/-- FREE VALUE, `draw_byte()` of R16: the byte of the n-th draw. No value of it is known (R131: every r in 0..255 is admitted, two draws are unrelated). DESIGN CHOICE of form, log 4; safe. -/
opaque freeByte : Nat → Byte

/-- FREE VALUE behind `draw_key(S)` of R16: the n-th draw takes the member of S at this position, counted round S. No value of it is known, so every member of S is admitted (R165 (b)). DESIGN CHOICE of form, log 5; safe. -/
opaque freeKeyPosition : Nat → Nat

end Sys2Proof.Config
end

