-- ==== Sys2Proof/Syntax.lean ====
section
/-! DEFINITION. The instructions: one constructor per row of 30_encoding.md R86, in its order (R83). Each operand has exactly its field's range (R71, R72). -/

namespace Sys2Proof

/-- The 30 rows of the opcode map. `x` and `y` are register numbers, `kk` an 8-bit immediate, `nnn` a 12-bit address, `n` a sprite height 0 to 15 (00_scope.md R15). -/
inductive Instr where
  /-- 00E0 CLS -/
  | cls
  /-- 00EE RET -/
  | ret
  /-- 1nnn JP nnn -/
  | jp (nnn : Addr12)
  /-- 2nnn CALL nnn -/
  | call (nnn : Addr12)
  /-- 3xkk SE Vx, kk -/
  | seImm (x : Reg) (kk : Byte)
  /-- 4xkk SNE Vx, kk -/
  | sneImm (x : Reg) (kk : Byte)
  /-- 5xy0 SE Vx, Vy -/
  | seReg (x y : Reg)
  /-- 6xkk LD Vx, kk -/
  | ldImm (x : Reg) (kk : Byte)
  /-- 7xkk ADD Vx, kk -/
  | addImm (x : Reg) (kk : Byte)
  /-- 8xy0 LD Vx, Vy -/
  | ldReg (x y : Reg)
  /-- 8xy1 OR Vx, Vy -/
  | orReg (x y : Reg)
  /-- 8xy2 AND Vx, Vy -/
  | andReg (x y : Reg)
  /-- 8xy3 XOR Vx, Vy -/
  | xorReg (x y : Reg)
  /-- 8xy4 ADD Vx, Vy -/
  | addReg (x y : Reg)
  /-- 8xy5 SUB Vx, Vy -/
  | subReg (x y : Reg)
  /-- 8xy6 SHR Vx; Y is decoded and not used (R77) -/
  | shr (x y : Reg)
  /-- 8xy7 SUBN Vx, Vy -/
  | subnReg (x y : Reg)
  /-- 8xyE SHL Vx; Y is decoded and not used (R77) -/
  | shl (x y : Reg)
  /-- 9xy0 SNE Vx, Vy -/
  | sneReg (x y : Reg)
  /-- Annn LD I, nnn -/
  | ldI (nnn : Addr12)
  /-- Bnnn JP V0, nnn -/
  | jpV0 (nnn : Addr12)
  /-- Cxkk RND Vx, kk -/
  | rnd (x : Reg) (kk : Byte)
  /-- Dxyn DRW Vx, Vy, n -/
  | drw (x y : Reg) (n : Fin 16)
  /-- Ex9E SKP Vx -/
  | skp (x : Reg)
  /-- ExA1 SKNP Vx -/
  | sknp (x : Reg)
  /-- Fx07 LD Vx, DT -/
  | ldVxDT (x : Reg)
  /-- Fx0A LD Vx, K -/
  | ldVxK (x : Reg)
  /-- Fx15 LD DT, Vx -/
  | ldDTVx (x : Reg)
  /-- Fx18 LD ST, Vx -/
  | ldSTVx (x : Reg)
  /-- Fx29, the reserved pattern (R80); X is not used -/
  | reservedFx29 (x : Reg)
deriving DecidableEq, Repr

end Sys2Proof
end

