-- ==== Sys2Proof/Decode.lean ====
section
/-! DEFINITION. Decoding (30_encoding.md R73 to R82), the encoder written from the opcode map (R86), and the map itself as a table of masks and matches. -/

namespace Sys2Proof

/-! ### Fields of a word (R71) -/

/-- G = w[15:12]. -/
def groupField (w : Word) : BitVec 4 := w.extractLsb' 12 4

/-- X = w[11:8]. -/
def xField (w : Word) : Reg := (w.extractLsb' 8 4).toFin

/-- Y = w[7:4]. -/
def yField (w : Word) : Reg := (w.extractLsb' 4 4).toFin

/-- N = w[3:0]. -/
def nField (w : Word) : BitVec 4 := w.extractLsb' 0 4

/-- KK = w[7:0]. -/
def kkField (w : Word) : Byte := w.extractLsb' 0 8

/-- NNN = w[11:0]. -/
def nnnField (w : Word) : Addr12 := w.extractLsb' 0 12

/-! ### The decoder -/

/-- What decoding a word answers: an instruction, or "unknown" with the word that no row matches (R73, R82, R83). -/
inductive Decoded where
  | instr (i : Instr)
  | unknown (w : Word)
deriving DecidableEq, Repr

/-- Why a byte sequence holds no instruction: its first word is unknown (R82), or it has fewer bytes than an instruction (R70). -/
inductive DecodeError where
  | unknownOpcode (w : Word)
  | tooShort
deriving DecidableEq, Repr

/-- Group 0: the whole word decides (R74; the spec's decision D10, log 15). -/
def decodeGroup0 (w : Word) : Decoded :=
  if w = 0x00E0#16 then .instr .cls
  else if w = 0x00EE#16 then .instr .ret
  else .unknown w

/-- Group 8: N decides (R77). -/
def decodeGroup8 (w : Word) : Decoded :=
  match (nField w).toNat with
  | 0x0 => .instr (.ldReg (xField w) (yField w))
  | 0x1 => .instr (.orReg (xField w) (yField w))
  | 0x2 => .instr (.andReg (xField w) (yField w))
  | 0x3 => .instr (.xorReg (xField w) (yField w))
  | 0x4 => .instr (.addReg (xField w) (yField w))
  | 0x5 => .instr (.subReg (xField w) (yField w))
  | 0x6 => .instr (.shr (xField w) (yField w))
  | 0x7 => .instr (.subnReg (xField w) (yField w))
  | 0xE => .instr (.shl (xField w) (yField w))
  | _ => .unknown w

/-- Group E: KK decides (R78). -/
def decodeGroupE (w : Word) : Decoded :=
  match (kkField w).toNat with
  | 0x9E => .instr (.skp (xField w))
  | 0xA1 => .instr (.sknp (xField w))
  | _ => .unknown w

/-- Group F: KK decides (R79); Fx29 is its own reserved pattern (R80). -/
def decodeGroupF (w : Word) : Decoded :=
  match (kkField w).toNat with
  | 0x07 => .instr (.ldVxDT (xField w))
  | 0x0A => .instr (.ldVxK (xField w))
  | 0x15 => .instr (.ldDTVx (xField w))
  | 0x18 => .instr (.ldSTVx (xField w))
  | 0x29 => .instr (.reservedFx29 (xField w))
  | _ => .unknown w

/-- `Decode(w)`: by group, then by the group's selector (R73 to R80). Groups 5 and 9 take N = 0 only (R76; the spec's decision D9, log 15). The last arm is unreachable: a group has 4 bits (C1). -/
def decodeWord (w : Word) : Decoded :=
  match (groupField w).toNat with
  | 0x0 => decodeGroup0 w
  | 0x1 => .instr (.jp (nnnField w))
  | 0x2 => .instr (.call (nnnField w))
  | 0x3 => .instr (.seImm (xField w) (kkField w))
  | 0x4 => .instr (.sneImm (xField w) (kkField w))
  | 0x5 => if nField w = 0#4 then .instr (.seReg (xField w) (yField w)) else .unknown w
  | 0x6 => .instr (.ldImm (xField w) (kkField w))
  | 0x7 => .instr (.addImm (xField w) (kkField w))
  | 0x8 => decodeGroup8 w
  | 0x9 => if nField w = 0#4 then .instr (.sneReg (xField w) (yField w)) else .unknown w
  | 0xA => .instr (.ldI (nnnField w))
  | 0xB => .instr (.jpV0 (nnnField w))
  | 0xC => .instr (.rnd (xField w) (kkField w))
  | 0xD => .instr (.drw (xField w) (yField w) (nField w).toFin)
  | 0xE => decodeGroupE w
  | 0xF => decodeGroupF w
  | _ => .unknown w

/-- The word of two bytes: the byte at the lower address is bits 15 to 8 (20_memory.md R55; the spec's decision D1, log 9). -/
def wordOfBytes (hi lo : Byte) : Word := hi ++ lo

/-- Decoding of a byte sequence: the instruction its first two bytes hold and the bytes after them, or why there is none (R70, R82). -/
def decodeBytes : List Byte → Except DecodeError (Instr × List Byte)
  | hi :: lo :: rest =>
    match decodeWord (wordOfBytes hi lo) with
    | .instr i => .ok (i, rest)
    | .unknown w => .error (.unknownOpcode w)
  | _ => .error .tooShort

/-! ### The encoder (R86) -/

/-- The view G-NNN (R71). -/
def packNNN (g : BitVec 4) (nnn : Addr12) : Word := g ++ nnn

/-- The view G-X-KK (R71). -/
def packXKK (g : BitVec 4) (x : Reg) (kk : Byte) : Word := g ++ BitVec.ofFin (w := 4) x ++ kk

/-- The view G-X-Y-N (R71). -/
def packXYN (g : BitVec 4) (x y : Reg) (n : BitVec 4) : Word :=
  g ++ BitVec.ofFin (w := 4) x ++ BitVec.ofFin (w := 4) y ++ n

/-- The word of an instruction, from its row of R86. -/
def encode : Instr → Word
  | .cls => 0x00E0#16
  | .ret => 0x00EE#16
  | .jp nnn => packNNN 0x1 nnn
  | .call nnn => packNNN 0x2 nnn
  | .seImm x kk => packXKK 0x3 x kk
  | .sneImm x kk => packXKK 0x4 x kk
  | .seReg x y => packXYN 0x5 x y 0x0
  | .ldImm x kk => packXKK 0x6 x kk
  | .addImm x kk => packXKK 0x7 x kk
  | .ldReg x y => packXYN 0x8 x y 0x0
  | .orReg x y => packXYN 0x8 x y 0x1
  | .andReg x y => packXYN 0x8 x y 0x2
  | .xorReg x y => packXYN 0x8 x y 0x3
  | .addReg x y => packXYN 0x8 x y 0x4
  | .subReg x y => packXYN 0x8 x y 0x5
  | .shr x y => packXYN 0x8 x y 0x6
  | .subnReg x y => packXYN 0x8 x y 0x7
  | .shl x y => packXYN 0x8 x y 0xE
  | .sneReg x y => packXYN 0x9 x y 0x0
  | .ldI nnn => packNNN 0xA nnn
  | .jpV0 nnn => packNNN 0xB nnn
  | .rnd x kk => packXKK 0xC x kk
  | .drw x y n => packXYN 0xD x y (BitVec.ofFin (w := 4) n)
  | .skp x => packXKK 0xE x 0x9E
  | .sknp x => packXKK 0xE x 0xA1
  | .ldVxDT x => packXKK 0xF x 0x07
  | .ldVxK x => packXKK 0xF x 0x0A
  | .ldDTVx x => packXKK 0xF x 0x15
  | .ldSTVx x => packXKK 0xF x 0x18
  | .reservedFx29 x => packXKK 0xF x 0x29

/-- The high byte of a word, stored at the lower address (R55). -/
def highByte (w : Word) : Byte := w.extractLsb' 8 8

/-- The low byte of a word, stored at the higher address (R55). -/
def lowByte (w : Word) : Byte := w.extractLsb' 0 8

/-- The two bytes of an instruction as memory holds them. -/
def encodeBytes (i : Instr) : List Byte := [highByte (encode i), lowByte (encode i)]

/-! ### The opcode map as a table (R86) -/

/-- One row of the opcode map: a word `w` is the row's instruction when `w AND mask = match`. -/
structure OpcodeRow where
  mask : Word
  bits : Word
deriving DecidableEq, Repr

/-- Does `w` match the row (R86)? -/
def OpcodeRow.matchesWord (row : OpcodeRow) (w : Word) : Bool := w &&& row.mask == row.bits

/-- The row an instruction belongs to (R86). -/
def opcodeRow : Instr → OpcodeRow
  | .cls => ⟨0xFFFF, 0x00E0⟩
  | .ret => ⟨0xFFFF, 0x00EE⟩
  | .jp _ => ⟨0xF000, 0x1000⟩
  | .call _ => ⟨0xF000, 0x2000⟩
  | .seImm _ _ => ⟨0xF000, 0x3000⟩
  | .sneImm _ _ => ⟨0xF000, 0x4000⟩
  | .seReg _ _ => ⟨0xF00F, 0x5000⟩
  | .ldImm _ _ => ⟨0xF000, 0x6000⟩
  | .addImm _ _ => ⟨0xF000, 0x7000⟩
  | .ldReg _ _ => ⟨0xF00F, 0x8000⟩
  | .orReg _ _ => ⟨0xF00F, 0x8001⟩
  | .andReg _ _ => ⟨0xF00F, 0x8002⟩
  | .xorReg _ _ => ⟨0xF00F, 0x8003⟩
  | .addReg _ _ => ⟨0xF00F, 0x8004⟩
  | .subReg _ _ => ⟨0xF00F, 0x8005⟩
  | .shr _ _ => ⟨0xF00F, 0x8006⟩
  | .subnReg _ _ => ⟨0xF00F, 0x8007⟩
  | .shl _ _ => ⟨0xF00F, 0x800E⟩
  | .sneReg _ _ => ⟨0xF00F, 0x9000⟩
  | .ldI _ => ⟨0xF000, 0xA000⟩
  | .jpV0 _ => ⟨0xF000, 0xB000⟩
  | .rnd _ _ => ⟨0xF000, 0xC000⟩
  | .drw _ _ _ => ⟨0xF000, 0xD000⟩
  | .skp _ => ⟨0xF0FF, 0xE09E⟩
  | .sknp _ => ⟨0xF0FF, 0xE0A1⟩
  | .ldVxDT _ => ⟨0xF0FF, 0xF007⟩
  | .ldVxK _ => ⟨0xF0FF, 0xF00A⟩
  | .ldDTVx _ => ⟨0xF0FF, 0xF015⟩
  | .ldSTVx _ => ⟨0xF0FF, 0xF018⟩
  | .reservedFx29 _ => ⟨0xF0FF, 0xF029⟩

/-- One instruction of each row 1 to 10 of R86. -/
def rowExamples1 : List Instr :=
  [.cls, .ret, .jp 0, .call 0, .seImm 0 0, .sneImm 0 0, .seReg 0 0, .ldImm 0 0, .addImm 0 0, .ldReg 0 0]

/-- One instruction of each row 11 to 20 of R86. -/
def rowExamples2 : List Instr :=
  [.orReg 0 0, .andReg 0 0, .xorReg 0 0, .addReg 0 0, .subReg 0 0, .shr 0 0, .subnReg 0 0, .shl 0 0, .sneReg 0 0, .ldI 0]

/-- One instruction of each row 21 to 30 of R86. -/
def rowExamples3 : List Instr :=
  [.jpV0 0, .rnd 0 0, .drw 0 0 0, .skp 0, .sknp 0, .ldVxDT 0, .ldVxK 0, .ldDTVx 0, .ldSTVx 0, .reservedFx29 0]

/-- The opcode map: the 30 rows of R86. -/
def opcodeRows : List OpcodeRow := (rowExamples1 ++ rowExamples2 ++ rowExamples3).map opcodeRow

/-! ### The host's reading of a table word -/

/-- The word that the low `nbits` bits of `w` give; every bit above is 0. -/
def tableWord (nbits w : Nat) : Word := BitVec.ofNat 16 (w % 2 ^ nbits)

/-- The instruction the decoder reads from an instruction whose bits are `w`, laid out in memory high byte first (R55). -/
def decodeTableWord (nbits w : Nat) : Option Instr :=
  match decodeBytes [highByte (tableWord nbits w), lowByte (tableWord nbits w)] with
  | .ok (i, _) => some i
  | .error _ => none

end Sys2Proof
end

