-- ==== Sys2Proof/Machine/State.lean ====
section
/-! DEFINITION. The architectural state of one machine (10_state.md R20), the run status and its error record (R33, R36; 60_exceptions.md R200), the outcomes of an execute phase (40_engine.md R93), and the state of a new machine (10_state.md R37, R38). -/

namespace Sys2Proof.Machine

/-- Memory: (address, byte) pairs, addresses rising, no zero byte listed; an address not listed reads as 0x00 (R37, log 10). -/
abbrev Memory := List Host.Cell

/-- The framebuffer: 32 rows of 64 pixels, `true` = set (10_state.md R30). -/
abbrev Framebuffer := Vector (Vector Bool 64) 32

/-- The input latch: for each key code, whether it is pressed (R32). -/
abbrev Latch := Vector Bool 16

/-- The error kinds (60_exceptions.md R200). -/
inductive ErrorKind where
  /-- Code 1: decode, any word that matches no row, and Fx29. -/
  | unknownOpcode
  /-- Code 2: 2nnn with SP = 16. -/
  | stackOverflow
  /-- Code 3: 00EE with SP = 0. -/
  | stackUnderflow
  /-- Code 4: fetch, Dxyn, and Ex9E/ExA1 under KEY_RANGE_POLICY = fault. -/
  | outOfBoundsFetch
  /-- Code 5: load only; returned to the host, never stored in STATUS (R202). -/
  | programTooLarge
deriving DecidableEq, Repr

/-- The info a Halted status records (10_state.md R36). -/
structure ErrorInfo where
  pc   : Word
  word : Option Word
  addr : Option Word
deriving DecidableEq, Repr

/-- STATUS (R33). -/
inductive Status where
  | running
  | halted (kind : ErrorKind) (info : ErrorInfo)
deriving DecidableEq, Repr

/-- Why a step stops. The machine's own errors are none of these: each of them is a next state with STATUS = Halted (60_exceptions.md R204). -/
inductive Fault where
  /-- Raised by `step` alone, on a machine whose STATUS is already Halted: no step is enabled there (40_engine.md R98). It carries the recorded error. Safe: the machine has no move (log 3). -/
  | halted (kind : ErrorKind) (info : ErrorInfo)
deriving DecidableEq, Repr

/-- Why the model gives no meaning. -/
inductive Refusal where
  /-- An instruction with no meaning in the model, by its mnemonic; raised by no arm now. Safe. -/
  | notModelled (mnemonic : String)
deriving DecidableEq, Repr

/-- The state of R20, then the model's own two fields. -/
structure State where
  /-- V[0..15] (R21); V[15] is VF (R22). -/
  v      : Vector Byte 16
  /-- I (R23). -/
  i      : Word
  /-- PC (R24). -/
  pc     : Word
  /-- DT (R25). -/
  dt     : Byte
  /-- ST (R26). -/
  st     : Byte
  /-- STACK[0..15] (R27). -/
  stack  : Vector Word 16
  /-- SP, the number of occupied entries, 0 to 16 (R28). -/
  sp     : Fin 17
  /-- MEM (R29; 20_memory.md R50). -/
  mem    : Memory
  /-- FB (R30). -/
  fb     : Framebuffer
  /-- DIRTY (R31). -/
  dirty  : Bool
  /-- LATCH (R32). -/
  latch  : Latch
  /-- STATUS (R33). -/
  status : Status
  /-- The MODEL's own: the configuration record, which nothing writes (00_scope.md R6; log 1). -/
  params : Config.Params
  /-- The MODEL's own: how many free values have been drawn (00_scope.md R16; log 6). -/
  draws  : Nat
deriving DecidableEq, Repr

/-- How an execute phase ends: exactly one of three ways (40_engine.md R93). -/
inductive Execution where
  /-- The rule's writes are in `s`; `redirected` says whether the instruction wrote PC (R94). -/
  | completed (s : State) (redirected : Bool)
  /-- An error, with the word and address its info records; nothing is committed (R96). -/
  | raised (kind : ErrorKind) (word addr : Option Word)
  /-- Only Fx0A with an empty latch: nothing changes (44_input_timers.md R164). -/
  | held

/-- What a new machine holds where the source sets nothing: the draw of RESET_FILL = arbitrary (10_state.md R38). -/
structure Fill where
  v     : Vector Byte 16
  i     : Word
  dt    : Byte
  st    : Byte
  stack : Vector Word 16
deriving DecidableEq, Repr

/-- RESET_FILL = zero (R38). -/
def Fill.zero : Fill := ⟨Vector.replicate 16 0#8, 0#16, 0#8, 0#8, Vector.replicate 16 0#16⟩

/-- The contents a new machine takes: zeros, or the free draw (R38; log 7). -/
def Fill.select (p : Config.Params) (draw : Fill) : Fill :=
  match p.resetFill with
  | .zero => Fill.zero
  | .arbitrary => draw

/-- A framebuffer with every pixel clear. -/
def Framebuffer.clear : Framebuffer := Vector.replicate 32 (Vector.replicate 64 false)

/-- A latch with no key pressed. -/
def Latch.empty : Latch := Vector.replicate 16 false

/-- Machine creation (R37; 70_reset_and_hazards.md R230) under a configuration, with the draw that RESET_FILL = arbitrary leaves free. -/
def State.create (p : Config.Params) (draw : Fill) : State where
  v      := (Fill.select p draw).v
  i      := (Fill.select p draw).i
  pc     := BitVec.ofNat 16 Config.progBase
  dt     := (Fill.select p draw).dt
  st     := (Fill.select p draw).st
  stack  := (Fill.select p draw).stack
  sp     := 0
  mem    := []
  fb     := Framebuffer.clear
  dirty  := true
  latch  := Latch.empty
  status := .running
  params := p
  draws  := 0

/-- The machine right after reset: creation with the default parameters (R37, R7). Values the source does not give: logs 7 and 8. -/
def State.reset : State := State.create Config.Params.default Fill.zero

end Sys2Proof.Machine
end

