-- ==== Sys2Proof/Machine/Ops.lean ====
section
/-! DEFINITION. The shared operations over memory, registers, stack, framebuffer and latch; taking an error; the end of a step. -/

namespace Sys2Proof.Machine

/-! ### Memory (20_memory.md) -/

/-- The byte at an address; an address not listed reads as 0x00 (R37, R53). -/
def Memory.read : Memory → Nat → Byte
  | [], _ => 0#8
  | (b, v) :: m, a => if a = b then v else Memory.read m a

/-- The list with the byte at `a` replaced, kept in canonical form. -/
def Memory.set : Memory → Nat → Byte → Memory
  | [], a, v => if v = 0#8 then [] else [(a, v)]
  | (b, u) :: m, a, v =>
    if a < b then (if v = 0#8 then (b, u) :: m else (a, v) :: (b, u) :: m)
    else if a = b then (if v = 0#8 then m else (a, v) :: m)
    else (b, u) :: Memory.set m a v

/-- The canonical form: addresses strictly rising, each in 0 .. MEM_SIZE−1 (R50), no entry equal to what an unlisted address reads as. -/
abbrev Memory.wf (m : Memory) : Prop :=
  m.Pairwise (fun c d => c.1 < d.1) ∧ ∀ c ∈ m, c.1 < Config.memSize ∧ c.2 ≠ 0#8

/-- `MemRead(addr, n)`: the n bytes from `addr` on, lowest address first, or none where the range check fails and nothing is read (R51; 00_scope.md R12). -/
def Memory.readBytes (m : Memory) (addr n : Nat) : Option (List Byte) :=
  if addr + n ≤ Config.memSize then some ((List.range n).map fun k => Memory.read m (addr + k)) else none

/-- `MemWrite(addr, 1, v)`, used by load alone (00_scope.md R12); an address that does not exist is not written. -/
def Memory.write (m : Memory) (addr : Nat) (v : Byte) : Memory :=
  if addr < Config.memSize then Memory.set m addr v else m

/-- The bytes written one after another from `addr` on (10_state.md R44). -/
def Memory.writeBytes (m : Memory) (addr : Nat) : List Byte → Memory
  | [] => m
  | v :: rest => Memory.writeBytes (Memory.write m addr v) (addr + 1) rest

/-- The instruction word at PC, high byte first, or none when PC > MEM_SIZE − 2 (R55, R58; 40_engine.md R91). -/
def State.fetchWord (s : State) : Option Word :=
  match Memory.readBytes s.mem s.pc.toNat Config.insnBytes with
  | some [hi, lo] => some (wordOfBytes hi lo)
  | _ => none

/-! ### Registers (10_state.md R21 to R28) -/

/-- `V[x]` (00_scope.md R11). -/
def State.readV (s : State) (x : Reg) : Byte := s.v[x]

/-- `V[x] <- b`; every register is an ordinary one (R21). -/
def State.writeV (s : State) (x : Reg) (b : Byte) : State := { s with v := s.v.set x b }

/-- `VF <- b` (R22). -/
def State.writeVF (s : State) (b : Byte) : State := s.writeV VF b

/-- `I <- a` (R23). -/
def State.writeI (s : State) (a : Word) : State := { s with i := a }

/-- `PC <- t` (R24). -/
def State.writePC (s : State) (t : Word) : State := { s with pc := t }

/-- `DT <- b` (R25). -/
def State.writeDT (s : State) (b : Byte) : State := { s with dt := b }

/-- `ST <- b` (R26). -/
def State.writeST (s : State) (b : Byte) : State := { s with st := b }

/-- `DIRTY <- 1` (R31; 43_index_display.md R149). -/
def State.markDirty (s : State) : State := { s with dirty := true }

/-- FB as a whole. -/
def State.writeFB (s : State) (fb : Framebuffer) : State := { s with fb := fb }

/-- A free value was drawn (00_scope.md R16; log 6). -/
def State.countDraw (s : State) : State := { s with draws := s.draws + 1 }

/-! ### The return-address stack (41_control_flow.md R110) -/

/-- The top entry and the state with it popped, or none when the stack is empty; the slot keeps its value (R100; 10_state.md R27). -/
def State.pop (s : State) : Option (Word × State) :=
  if h : s.sp.val = 0 then none
  else some (s.stack[s.sp.val - 1]'(by omega), { s with sp := ⟨s.sp.val - 1, by omega⟩ })

/-- The state with an entry pushed, or none when the stack is full (R102). -/
def State.push (s : State) (a : Word) : Option State :=
  if h : s.sp.val < 16 then some { s with stack := s.stack.set s.sp.val a h, sp := ⟨s.sp.val + 1, by omega⟩ }
  else none

/-! ### The framebuffer (10_state.md R30; 43_index_display.md) -/

/-- `FB[r][c]`. -/
def Framebuffer.pixel (fb : Framebuffer) (r : Fin 32) (c : Fin 64) : Bool := fb[r][c]

/-- `FB[r][c] <- FB[r][c] XOR 1` (R142). -/
def Framebuffer.toggle (fb : Framebuffer) (r : Fin 32) (c : Fin 64) : Framebuffer :=
  fb.set r (fb[r].set c (!fb.pixel r c))

/-- The framebuffer and the collision mark while a sprite is drawn (R142, `coll`). -/
structure Canvas where
  fb   : Framebuffer
  coll : Bool
deriving DecidableEq, Repr

/-- The row a sprite row lands on: `(py + row) mod FB_H` (R144). -/
def spriteRow (py : Byte) (row : Nat) : Fin 32 := Fin.ofNat 32 (py.toNat + row)

/-- The column a sprite bit lands on: `(px + col) mod FB_W` (R144). -/
def spriteColumn (px : Byte) (col : Nat) : Fin 64 := Fin.ofNat 64 (px.toNat + col)

/-- Bit 7 is column offset 0, bit 0 is column offset 7 (R143). -/
def spriteBit (b : Byte) (col : Nat) : Bool := b.getLsbD (7 - col)

/-- A set sprite bit flips its pixel and marks a collision if it was set (R142, R145). -/
def Canvas.flip (d : Canvas) (r : Fin 32) (c : Fin 64) : Canvas :=
  ⟨d.fb.toggle r c, d.coll || d.fb.pixel r c⟩

/-- One sprite row: its eight bits, most significant first (R142). -/
def Canvas.drawByte (d : Canvas) (b px : Byte) (r : Fin 32) : Canvas :=
  (List.range 8).foldl (fun d col => if spriteBit b col then d.flip r (spriteColumn px col) else d) d

/-- The sprite's rows, top first; row `row` is the byte at I + row (R142, R143). -/
def Canvas.drawSprite (d : Canvas) (m : Memory) (i : Word) (n : Nat) (px py : Byte) : Canvas :=
  (List.range n).foldl (fun d row => d.drawByte (Memory.read m (i.toNat + row)) px (spriteRow py row)) d

/-! ### The input latch (10_state.md R32) -/

/-- The keys that are pressed, lowest code first. -/
def Latch.pressed (l : Latch) : List Key := (List.finRange 16).filter fun k => l[k]

/-- LATCH with one key added or removed (R43). -/
def Latch.setKey (l : Latch) (k : Key) (pressed : Bool) : Latch := l.set k pressed

/-- `draw_key(LATCH)`: a free member of LATCH, or none when it is empty (00_scope.md R16; log 5). -/
def State.drawKey (s : State) : Option Key :=
  s.latch.pressed[Config.freeKeyPosition s.draws % s.latch.pressed.length]?

/-- `draw_byte()` (R16; log 4). -/
def State.drawByte (s : State) : Byte := Config.freeByte s.draws

/-! ### Errors (60_exceptions.md) -/

/-- The numeric code of an error kind (R200; the spec's decision D16). -/
def ErrorKind.code : ErrorKind → Nat
  | .unknownOpcode => 1
  | .stackOverflow => 2
  | .stackUnderflow => 3
  | .outOfBoundsFetch => 4
  | .programTooLarge => 5

/-- TAKING AN ERROR: `STATUS <- Halted(E, info)` and nothing else; info's pc is PC, which stays at the instruction that raised (R204; 40_engine.md R96). There is no return from it (R206, R207). -/
def State.raise (s : State) (kind : ErrorKind) (word addr : Option Word) : State :=
  { s with status := .halted kind ⟨s.pc, word, addr⟩ }

/-! ### The end of a step (40_engine.md R94, R95) -/

/-- Phase 4 of a step that was not redirected: `PC <- PC + 2` (R94). -/
def State.advance (s : State) : State := s.writePC (s.pc + 2#16)

/-- A timer one lower, floored at 0 (R95). -/
def decayed (b : Byte) : Byte := if b = 0#8 then 0#8 else b - 1#8

/-- Phase 5: under per_step the delay timer decays (R95); under host_tick it does not. -/
def State.decay (s : State) : State :=
  match s.params.dtDecay with
  | .perStep => s.writeDT (decayed s.dt)
  | .hostTick => s

/-- What follows an execute phase that began in `s`: phases 4 and 5 when it completed; the error taken in `s`, with nothing of the phase committed, when it raised; `s` itself when it is held, so that the next call finds the same Fx0A (R93; held: log 2). -/
def finish (s : State) : Execution → Host.Outcome State Fault Refusal
  | .completed t false => .next t.advance.decay
  | .completed t true => .next t.decay
  | .raised kind word addr => .next (s.raise kind word addr)
  | .held => .next s

/-- `pc <- t`: PC written and the step redirected (00_scope.md R11; R94). -/
def State.redirect (s : State) (t : Word) : Execution := .completed (s.writePC t) true

end Sys2Proof.Machine
end

