-- ==== Sys2Proof/Machine/Flags.lean ====
section
/-! DEFINITION. The values VF takes (42_alu.md R132, 43_index_display.md R145). -/

namespace Sys2Proof.Machine

/-- A condition as a flag value: 1 or 0. -/
def flagByte (c : Bool) : Byte := if c then 1#8 else 0#8

/-- 8xy4: the raw sum exceeds 255 (R126). -/
def carryFlag (a b : Byte) : Byte := flagByte (255 < a.toNat + b.toNat)

/-- 8xy5 and 8xy7: the minuend is strictly greater, unsigned (R127, R129). -/
def greaterFlag (minuend subtrahend : Byte) : Byte := flagByte (subtrahend.toNat < minuend.toNat)

/-- 8xy6: bit 0, the bit shifted out (R128). -/
def lowBitFlag (a : Byte) : Byte := a &&& 0x01#8

/-- 8xyE: bit 7, the bit shifted out (R130). -/
def highBitFlag (a : Byte) : Byte := (a >>> 7) &&& 0x01#8

end Sys2Proof.Machine
end

