-- ==== Sys2Proof/Machine/Operands.lean ====
section
/-! DEFINITION. The operand forms: the zero-extended address (30_encoding.md R72), the offset target of Bnnn (41_control_flow.md R108), the two targets of a skip (R107), the key code in a register (44_input_timers.md R162), the sprite's bytes (43_index_display.md R146). -/

namespace Sys2Proof.Machine

/-- `zext_16(NNN)` (R72). -/
def addrOperand (nnn : Addr12) : Word := nnn.setWidth 16

/-- `zext_16(NNN) + zext_16(V[0])`, a 16-bit sum with no mask (R108). -/
def State.offsetTarget (s : State) (nnn : Addr12) : Word := addrOperand nnn + (s.readV 0).setWidth 16

/-- `PC + 4` when the skip is taken, `PC + 2` when it is not (R107). -/
def State.skipTarget (s : State) (taken : Bool) : Word := if taken then s.pc + 4#16 else s.pc + 2#16

/-- A skip writes PC either way, so the step is redirected (R94, R107). -/
def State.skipIf (s : State) (taken : Bool) : Execution := s.redirect (s.skipTarget taken)

/-- `KeyIn(k)`, or none where KEY_RANGE_POLICY = fault makes a code of 16 or more an error (R162). -/
def State.keyIn (s : State) (k : Byte) : Option Bool :=
  if h : k.toNat < 16 then some s.latch[k.toNat]
  else match s.params.keyRange with
    | .notPressed => some false
    | .fault => none

/-- Do the N sprite bytes from I on run past the end of memory (R146)? Never for N = 0. -/
def State.spriteOutOfRange (s : State) (n : Nat) : Bool := 0 < n && Config.memSize < s.i.toNat + n

end Sys2Proof.Machine
end

