-- ==== Sys2Proof/Machine/Alu.lean ====
section
/-! DEFINITION. Register loads, arithmetic, logic, shifts and random (42_alu.md). Where VF is a flag, the statements stand in the order the rule writes them and each reads what the one before left (R97, 00_scope.md R14; the spec's decision D8, log 14). Each `do…` is the execute phase, the rule's pseudocode; each `exec…` is that phase followed by the end of the step (40_engine.md R93 to R95). -/

namespace Sys2Proof.Machine

/-- 6xkk LD Vx, kk (R120). -/
def doLdImm (x : Reg) (kk : Byte) (s : State) : Execution :=
  .completed (s.writeV x kk) false

/-- The step of `doLdImm`. -/
def execLdImm (x : Reg) (kk : Byte) (s : State) : Host.Outcome State Fault Refusal := finish s (doLdImm x kk s)

/-- 7xkk ADD Vx, kk (R121): wraps, no flag. -/
def doAddImm (x : Reg) (kk : Byte) (s : State) : Execution :=
  .completed (s.writeV x (s.readV x + kk)) false

/-- The step of `doAddImm`. -/
def execAddImm (x : Reg) (kk : Byte) (s : State) : Host.Outcome State Fault Refusal := finish s (doAddImm x kk s)

/-- 8xy0 LD Vx, Vy (R122). -/
def doLdReg (x y : Reg) (s : State) : Execution :=
  .completed (s.writeV x (s.readV y)) false

/-- The step of `doLdReg`. -/
def execLdReg (x y : Reg) (s : State) : Host.Outcome State Fault Refusal := finish s (doLdReg x y s)

/-- 8xy1 OR Vx, Vy (R123). -/
def doOrReg (x y : Reg) (s : State) : Execution :=
  .completed (s.writeV x (s.readV x ||| s.readV y)) false

/-- The step of `doOrReg`. -/
def execOrReg (x y : Reg) (s : State) : Host.Outcome State Fault Refusal := finish s (doOrReg x y s)

/-- 8xy2 AND Vx, Vy (R124). -/
def doAndReg (x y : Reg) (s : State) : Execution :=
  .completed (s.writeV x (s.readV x &&& s.readV y)) false

/-- The step of `doAndReg`. -/
def execAndReg (x y : Reg) (s : State) : Host.Outcome State Fault Refusal := finish s (doAndReg x y s)

/-- 8xy3 XOR Vx, Vy (R125). -/
def doXorReg (x y : Reg) (s : State) : Execution :=
  .completed (s.writeV x (s.readV x ^^^ s.readV y)) false

/-- The step of `doXorReg`. -/
def execXorReg (x y : Reg) (s : State) : Host.Outcome State Fault Refusal := finish s (doXorReg x y s)

/-- 8xy4 ADD Vx, Vy (R126): the sum first, then VF = carry. -/
def doAddReg (x y : Reg) (s : State) : Execution :=
  .completed ((s.writeV x (s.readV x + s.readV y)).writeVF (carryFlag (s.readV x) (s.readV y))) false

/-- The step of `doAddReg`. -/
def execAddReg (x y : Reg) (s : State) : Host.Outcome State Fault Refusal := finish s (doAddReg x y s)

/-- 8xy5 SUB Vx, Vy (R127): VF first, then the difference of V[x] and V[y] as they are then. -/
def doSubReg (x y : Reg) (s : State) : Execution :=
  let t := s.writeVF (greaterFlag (s.readV x) (s.readV y))
  .completed (t.writeV x (t.readV x - t.readV y)) false

/-- The step of `doSubReg`. -/
def execSubReg (x y : Reg) (s : State) : Host.Outcome State Fault Refusal := finish s (doSubReg x y s)

/-- 8xy6 SHR Vx (R128): VF first, then the shift of V[x] as it is then; Y is not read. -/
def doShr (x _y : Reg) (s : State) : Execution :=
  let t := s.writeVF (lowBitFlag (s.readV x))
  .completed (t.writeV x (t.readV x >>> 1)) false

/-- The step of `doShr`. -/
def execShr (x y : Reg) (s : State) : Host.Outcome State Fault Refusal := finish s (doShr x y s)

/-- 8xy7 SUBN Vx, Vy (R129): VF first, then the reverse difference. -/
def doSubnReg (x y : Reg) (s : State) : Execution :=
  let t := s.writeVF (greaterFlag (s.readV y) (s.readV x))
  .completed (t.writeV x (t.readV y - t.readV x)) false

/-- The step of `doSubnReg`. -/
def execSubnReg (x y : Reg) (s : State) : Host.Outcome State Fault Refusal := finish s (doSubnReg x y s)

/-- 8xyE SHL Vx (R130): VF first, then the shift of V[x] as it is then; Y is not read. -/
def doShl (x _y : Reg) (s : State) : Execution :=
  let t := s.writeVF (highBitFlag (s.readV x))
  .completed (t.writeV x (t.readV x <<< 1)) false

/-- The step of `doShl`. -/
def execShl (x y : Reg) (s : State) : Host.Outcome State Fault Refusal := finish s (doShl x y s)

/-- Cxkk RND Vx, kk (R131): a free byte (log 4) masked by kk. -/
def doRnd (x : Reg) (kk : Byte) (s : State) : Execution :=
  .completed ((s.writeV x (s.drawByte &&& kk)).countDraw) false

/-- The step of `doRnd`. -/
def execRnd (x : Reg) (kk : Byte) (s : State) : Host.Outcome State Fault Refusal := finish s (doRnd x kk s)

end Sys2Proof.Machine
end

