-- ==== Sys2Proof/Machine/Control.lean ====
section
/-! DEFINITION. Jumps, calls, returns and register skips (41_control_flow.md). Each `do…` is the execute phase, the rule's pseudocode; each `exec…` is that phase followed by the end of the step (40_engine.md R93 to R95). -/

namespace Sys2Proof.Machine

/-- 00EE RET (R100): StackUnderflow when the stack is empty, before any write. -/
def doRet (s : State) : Execution :=
  match s.pop with
  | none => .raised .stackUnderflow none none
  | some (a, t) => t.redirect a

/-- The step of `doRet`. -/
def execRet (s : State) : Host.Outcome State Fault Refusal := finish s (doRet s)

/-- 1nnn JP nnn (R101). -/
def doJp (nnn : Addr12) (s : State) : Execution :=
  s.redirect (addrOperand nnn)

/-- The step of `doJp`. -/
def execJp (nnn : Addr12) (s : State) : Host.Outcome State Fault Refusal := finish s (doJp nnn s)

/-- 2nnn CALL nnn (R102): pushes the address of the next instruction; StackOverflow when the stack is full, before any write. -/
def doCall (nnn : Addr12) (s : State) : Execution :=
  match s.push (s.pc + 2#16) with
  | none => .raised .stackOverflow none none
  | some t => t.redirect (addrOperand nnn)

/-- The step of `doCall`. -/
def execCall (nnn : Addr12) (s : State) : Host.Outcome State Fault Refusal := finish s (doCall nnn s)

/-- 3xkk SE Vx, kk (R103). -/
def doSeImm (x : Reg) (kk : Byte) (s : State) : Execution :=
  s.skipIf (s.readV x == kk)

/-- The step of `doSeImm`. -/
def execSeImm (x : Reg) (kk : Byte) (s : State) : Host.Outcome State Fault Refusal := finish s (doSeImm x kk s)

/-- 4xkk SNE Vx, kk (R104). -/
def doSneImm (x : Reg) (kk : Byte) (s : State) : Execution :=
  s.skipIf (s.readV x != kk)

/-- The step of `doSneImm`. -/
def execSneImm (x : Reg) (kk : Byte) (s : State) : Host.Outcome State Fault Refusal := finish s (doSneImm x kk s)

/-- 5xy0 SE Vx, Vy (R105). -/
def doSeReg (x y : Reg) (s : State) : Execution :=
  s.skipIf (s.readV x == s.readV y)

/-- The step of `doSeReg`. -/
def execSeReg (x y : Reg) (s : State) : Host.Outcome State Fault Refusal := finish s (doSeReg x y s)

/-- 9xy0 SNE Vx, Vy (R106). -/
def doSneReg (x y : Reg) (s : State) : Execution :=
  s.skipIf (s.readV x != s.readV y)

/-- The step of `doSneReg`. -/
def execSneReg (x y : Reg) (s : State) : Host.Outcome State Fault Refusal := finish s (doSneReg x y s)

/-- Bnnn JP V0, nnn (R108). -/
def doJpV0 (nnn : Addr12) (s : State) : Execution :=
  s.redirect (s.offsetTarget nnn)

/-- The step of `doJpV0`. -/
def execJpV0 (nnn : Addr12) (s : State) : Host.Outcome State Fault Refusal := finish s (doJpV0 nnn s)

end Sys2Proof.Machine
end

