-- ==== Sys2Proof/Machine/Display.lean ====
section
/-! DEFINITION. The index register, clear screen and the sprite unit (43_index_display.md). Each `do…` is the execute phase, the rule's pseudocode; each `exec…` is that phase followed by the end of the step (40_engine.md R93 to R95). -/

namespace Sys2Proof.Machine

/-- Annn LD I, nnn (R140). -/
def doLdI (nnn : Addr12) (s : State) : Execution :=
  .completed (s.writeI (addrOperand nnn)) false

/-- The step of `doLdI`. -/
def execLdI (nnn : Addr12) (s : State) : Host.Outcome State Fault Refusal := finish s (doLdI nnn s)

/-- 00E0 CLS (R141). -/
def doCls (s : State) : Execution :=
  .completed ((s.writeFB Framebuffer.clear).markDirty) false

/-- The step of `doCls`. -/
def execCls (s : State) : Host.Outcome State Fault Refusal := finish s (doCls s)

/-- Dxyn DRW Vx, Vy, n (R142, R146, R147): the coordinates are read before any write, the bounds checked before anything is read, VF written after every pixel, then DIRTY. -/
def doDrw (x y : Reg) (n : Fin 16) (s : State) : Execution :=
  if s.spriteOutOfRange n then .raised .outOfBoundsFetch none (some s.i)
  else
    let d := Canvas.drawSprite ⟨s.fb, false⟩ s.mem s.i n (s.readV x) (s.readV y)
    .completed (((s.writeFB d.fb).writeVF (flagByte d.coll)).markDirty) false

/-- The step of `doDrw`. -/
def execDrw (x y : Reg) (n : Fin 16) (s : State) : Host.Outcome State Fault Refusal := finish s (doDrw x y n s)

end Sys2Proof.Machine
end

