-- ==== Sys2Proof/Machine/InputTimers.lean ====
section
/-! DEFINITION. The input latch, the timers and the reserved pattern Fx29 (44_input_timers.md). Each `do…` is the execute phase, the rule's pseudocode; each `exec…` is that phase followed by the end of the step (40_engine.md R93 to R95). -/

namespace Sys2Proof.Machine

/-- Ex9E SKP Vx (R160, R162). -/
def doSkp (x : Reg) (s : State) : Execution :=
  match s.keyIn (s.readV x) with
  | some pressed => s.skipIf pressed
  | none => .raised .outOfBoundsFetch none (some ((s.readV x).setWidth 16))

/-- The step of `doSkp`. -/
def execSkp (x : Reg) (s : State) : Host.Outcome State Fault Refusal := finish s (doSkp x s)

/-- ExA1 SKNP Vx (R161, R162). -/
def doSknp (x : Reg) (s : State) : Execution :=
  match s.keyIn (s.readV x) with
  | some pressed => s.skipIf (!pressed)
  | none => .raised .outOfBoundsFetch none (some ((s.readV x).setWidth 16))

/-- The step of `doSknp`. -/
def execSknp (x : Reg) (s : State) : Host.Outcome State Fault Refusal := finish s (doSknp x s)

/-- Fx07 LD Vx, DT (R163): DT as it is before this step's decay. -/
def doLdVxDT (x : Reg) (s : State) : Execution :=
  .completed (s.writeV x s.dt) false

/-- The step of `doLdVxDT`. -/
def execLdVxDT (x : Reg) (s : State) : Host.Outcome State Fault Refusal := finish s (doLdVxDT x s)

/-- Fx0A LD Vx, K (R164, R165): held while LATCH is empty, else a free member of LATCH (log 5); the latch is not cleared. -/
def doLdVxK (x : Reg) (s : State) : Execution :=
  match s.drawKey with
  | none => .held
  | some k => .completed ((s.writeV x (BitVec.ofNat 8 k.val)).countDraw) false

/-- The step of `doLdVxK`. -/
def execLdVxK (x : Reg) (s : State) : Host.Outcome State Fault Refusal := finish s (doLdVxK x s)

/-- Fx15 LD DT, Vx (R166). -/
def doLdDTVx (x : Reg) (s : State) : Execution :=
  .completed (s.writeDT (s.readV x)) false

/-- The step of `doLdDTVx`. -/
def execLdDTVx (x : Reg) (s : State) : Host.Outcome State Fault Refusal := finish s (doLdDTVx x s)

/-- Fx18 LD ST, Vx (R167): no further effect. -/
def doLdSTVx (x : Reg) (s : State) : Execution :=
  .completed (s.writeST (s.readV x)) false

/-- The step of `doLdSTVx`. -/
def execLdSTVx (x : Reg) (s : State) : Host.Outcome State Fault Refusal := finish s (doLdSTVx x s)

/-- Fx29 (R168): raises UnknownOpcode with its own word, which the encoding gives (log 25). -/
def doReservedFx29 (x : Reg) (_ : State) : Execution :=
  .raised .unknownOpcode (some (encode (.reservedFx29 x))) none

/-- The step of `doReservedFx29`. -/
def execReservedFx29 (x : Reg) (s : State) : Host.Outcome State Fault Refusal := finish s (doReservedFx29 x s)

end Sys2Proof.Machine
end

