-- ==== Sys2Proof/Machine/Step.lean ====
section
/-! DEFINITION. One step of the core (40_engine.md R90), and how the host places an instruction where it is fetched. -/

namespace Sys2Proof.Machine

/-- One fetch-decode-execute cycle (R90). The checks come in phase order: STATUS (R98), fetch (R91), decode (R92), then the instruction's own (60_exceptions.md R203). A held Fx0A answers the same state (log 2); a Halted machine has no step (log 3). -/
def step (s : State) : Host.Outcome State Fault Refusal :=
  match s.status with
  | .halted kind info => .fault (.halted kind info)
  | .running =>
    match s.fetchWord with
    | none => .next (s.raise .outOfBoundsFetch none (some s.pc))
    | some w =>
      match decodeWord w with
      | .instr i => exec i s
      | .unknown u => .next (s.raise .unknownOpcode (some u) none)

/-- `s` with the instruction word `w` stored at PC, high byte first, where `step` fetches (20_memory.md R55). -/
def State.withFetchWord (s : State) (nbits w : Nat) : State :=
  { s with mem := Memory.writeBytes s.mem s.pc.toNat [highByte (tableWord nbits w), lowByte (tableWord nbits w)] }

end Sys2Proof.Machine
end

