-- ==== Sys2Proof/WellFormed.lean ====
section
/-! DEFINITION. The checks on what comes from outside: a program image (10_state.md R44) and a key code (R43). An instruction needs none: every value of an operand's type is a legal field value (30_encoding.md R72). -/

namespace Sys2Proof

/-- R72: every field value is legal and the operand types hold exactly the field values, so every term is well formed (DEDUCED, log 23; safe). Stated per constructor so that a new one must be looked at. -/
def Instr.wellFormed : Instr → Bool
  | .cls | .ret => true
  | .jp _ | .call _ | .ldI _ | .jpV0 _ => true
  | .seImm _ _ | .sneImm _ _ | .ldImm _ _ | .addImm _ _ | .rnd _ _ => true
  | .seReg _ _ | .sneReg _ _ | .ldReg _ _ | .orReg _ _ | .andReg _ _ | .xorReg _ _ => true
  | .addReg _ _ | .subReg _ _ | .subnReg _ _ | .shr _ _ | .shl _ _ => true
  | .drw _ _ _ => true
  | .skp _ | .sknp _ | .ldVxDT _ | .ldVxK _ | .ldDTVx _ | .ldSTVx _ | .reservedFx29 _ => true

/-- A program image that load accepts: at most PROG_MAX bytes (R44; 70_reset_and_hazards.md R233). -/
def programWellFormed (bytes : List Byte) : Bool := bytes.length ≤ Config.progMax

/-- A key code the host may send: 0x0 to 0xF (R43). -/
def keyCodeWellFormed (code : Nat) : Bool := code < Config.numKeys

end Sys2Proof
end

