-- ==== Sys2Proof/Machine/HostInterface.lean ====
section
/-! DEFINITION. The host's transactions (10_state.md R40 to R47) and the protocol they keep (70_reset_and_hazards.md R231). Each is atomic and falls between steps (R41). -/

namespace Sys2Proof.Machine

/-! ### The transactions on a machine -/

/-- `load(bytes)`: none is ProgramTooLarge, with no state changed; else the image at PROG_BASE and PC there (R44). -/
def State.load (s : State) (bytes : List Byte) : Option State :=
  if programWellFormed bytes then
    some { s with mem := Memory.writeBytes s.mem Config.progBase bytes, pc := BitVec.ofNat 16 Config.progBase }
  else none

/-- `set_key(code, pressed)`; none where the code is outside 0x0..0xF, which is no move (R43). -/
def State.setKey (s : State) (code : Nat) (pressed : Bool) : Option State :=
  if h : code < 16 then some { s with latch := s.latch.setKey ⟨code, h⟩ pressed } else none

/-- `read_framebuffer()`: a copy of FB and DIRTY as it was, then DIRTY cleared (R45). -/
def State.readFramebuffer (s : State) : (Framebuffer × Bool) × State := ((s.fb, s.dirty), { s with dirty := false })

/-- `read_status()` (R46). -/
def State.readStatus (s : State) : Status := s.status

/-- `tick()`: DT decays; none where it is no move, under per_step or when Halted (R47; 40_engine.md R98). -/
def State.tick (s : State) : Option State :=
  match s.params.dtDecay, s.status with
  | .hostTick, .running => some (s.writeDT (decayed s.dt))
  | _, _ => none

/-- Is the machine held: Running, an Fx0A fetched, and LATCH empty (R34 (b); 44_input_timers.md R164)? -/
def State.held (s : State) : Bool :=
  s.status == .running &&
    match s.fetchWord.map decodeWord with
    | some (.instr (.ldVxK _)) => s.drawKey.isNone
    | _ => false

/-- Is a step enabled: Running and not held (R42)? -/
def State.stepEnabled (s : State) : Bool := s.status == .running && !s.held

/-! ### The host's moves -/

/-- A machine and whether the host may still load: load is admitted once, before the first step (70_reset_and_hazards.md R231; log 12). -/
structure Session where
  machine  : State
  loadOpen : Bool
deriving DecidableEq, Repr

/-- `create` (R40): a new machine, not loaded. -/
def Session.create (p : Config.Params) (draw : Fill) : Session := ⟨State.create p draw, true⟩

/-- The host's other transactions (R40). -/
inductive HostMove where
  | load (bytes : List Byte)
  | step
  | setKey (code : Nat) (pressed : Bool)
  | readFramebuffer
  | readStatus
  | tick
deriving DecidableEq, Repr

/-- What a transaction returns to the host. -/
inductive Reply where
  | loaded
  /-- Error code 5 (60_exceptions.md R200, R202). -/
  | programTooLarge
  | stepped
  | keySet
  | frame (fb : Framebuffer) (dirty : Bool)
  | status (st : Status)
  | ticked
deriving DecidableEq, Repr

/-- Why a transaction is no move of the host. -/
inductive NoMove where
  /-- A second load, or a load after a step (R231). -/
  | loadClosed
  /-- A key code outside 0x0..0xF (R43). -/
  | keyCode
  /-- step, load or tick on a Halted machine (40_engine.md R98). -/
  | halted
  /-- tick under DT_DECAY = per_step (R47). -/
  | tickPerStep
deriving DecidableEq, Repr

/-- What becomes of a transaction: done; a step that is held and has not returned (R42); no move. -/
inductive MoveResult where
  | done (s : Session) (r : Reply)
  | held
  | noMove (why : NoMove)
deriving DecidableEq, Repr

/-- `load` as a move: on a Running machine, once, before the first step; a load that fails has used the one up (R231, log 12). -/
def Session.load (s : Session) (bytes : List Byte) : MoveResult :=
  match s.machine.status with
  | .halted _ _ => .noMove .halted
  | .running =>
    if s.loadOpen then
      match s.machine.load bytes with
      | some m => .done ⟨m, false⟩ .loaded
      | none => .done ⟨s.machine, false⟩ .programTooLarge
    else .noMove .loadClosed

/-- `step` as a move: enabled exactly when Running and not held (R42). -/
def Session.step (s : Session) : MoveResult :=
  if s.machine.held then .held
  else
    match Sys2Proof.Machine.step s.machine with
    | .next m => .done ⟨m, false⟩ .stepped
    | .fault _ => .noMove .halted
    | .refused _ => .noMove .halted

/-- `set_key` as a move, allowed in either STATUS (R43). -/
def Session.setKey (s : Session) (code : Nat) (pressed : Bool) : MoveResult :=
  match s.machine.setKey code pressed with
  | some m => .done { s with machine := m } .keySet
  | none => .noMove .keyCode

/-- `read_framebuffer` as a move, allowed in either STATUS (R45). -/
def Session.readFramebuffer (s : Session) : MoveResult :=
  .done { s with machine := s.machine.readFramebuffer.2 } (.frame s.machine.readFramebuffer.1.1 s.machine.readFramebuffer.1.2)

/-- `tick` as a move (R47). -/
def Session.tick (s : Session) : MoveResult :=
  match s.machine.tick with
  | some m => .done { s with machine := m } .ticked
  | none => .noMove (if s.machine.status = .running then .tickPerStep else .halted)

/-- One transaction of the host (R40, R41). -/
def Session.move (s : Session) : HostMove → MoveResult
  | .load bytes => s.load bytes
  | .step => s.step
  | .setKey code pressed => s.setKey code pressed
  | .readFramebuffer => s.readFramebuffer
  | .readStatus => .done s (.status s.machine.readStatus)
  | .tick => s.tick

/-- A sequence of transactions; what is held or no move leaves the session as it is (R41, R61). -/
def Session.run (s : Session) : List HostMove → Session
  | [] => s
  | m :: rest =>
    match s.move m with
    | .done t _ => t.run rest
    | .held => s.run rest
    | .noMove _ => s.run rest

end Sys2Proof.Machine
end

