-- ==== Sys2Proof/Safety.lean ====
section
/-! DEFINITION. What the claims speak of: the invariant of the states, runs of the host's moves, a run without error, and the agreement of two states outside named fields. -/

namespace Sys2Proof.Machine

/-- Does an error kind record this info in STATUS (60_exceptions.md R200)? ProgramTooLarge is never stored (R202). -/
def ErrorKind.records : ErrorKind → ErrorInfo → Bool
  | .unknownOpcode, info => info.word.isSome && info.addr.isNone
  | .stackOverflow, info => info.word.isNone && info.addr.isNone
  | .stackUnderflow, info => info.word.isNone && info.addr.isNone
  | .outOfBoundsFetch, info => info.word.isNone && info.addr.isSome
  | .programTooLarge, _ => false

/-- The invariant of the machine's states. -/
structure State.Inv (s : State) : Prop where
  /-- The memory is in canonical form, every listed address in 0 .. MEM_SIZE−1 (20_memory.md R50). -/
  memory : Memory.wf s.mem
  /-- PC is at most 0x10FE, the largest value any rule can write (10_state.md R24). -/
  pcBound : s.pc.toNat ≤ 0x10FE
  /-- An occupied stack entry was pushed by a call that could be fetched: it is at most 0x1000 (41_control_flow.md R102). -/
  stackBound : ∀ j : Fin 16, j.val < s.sp.val → s.stack[j].toNat ≤ 0x1000
  /-- A recorded error has its kind's info, and its pc is still PC (60_exceptions.md R200, R204). -/
  haltedRecord : ∀ kind info, s.status = .halted kind info → info.pc = s.pc ∧ kind.records info

/-- The invariant of a session. -/
structure Session.Inv (s : Session) : Prop where
  /-- The machine's own invariant. -/
  machine : s.machine.Inv
  /-- Memory is as created, all zero, while load is still open (10_state.md R37; 20_memory.md R52). -/
  unloaded : s.loadOpen = true → s.machine.mem = []
  /-- Every byte outside the program's place 0x200 .. 0x5FF is zero: nothing but load writes memory, and load writes there alone (10_state.md R44). -/
  outside : ∀ a, a < 0x200 ∨ 0x600 ≤ a → Memory.read s.machine.mem a = 0#8

/-- The state is Running. -/
abbrev State.isRunning (s : State) : Prop := s.status = .running

/-- A session the host can bring about: from creation, by any sequence of transactions (10_state.md R40, R41). -/
def Session.Reachable (s : Session) : Prop :=
  ∃ (p : Config.Params) (draw : Fill) (moves : List HostMove), s = (Session.create p draw).run moves

/-- A run of `k` calls of step is safe when none of them leaves the machine Halted (60_exceptions.md R215). -/
def State.safeFor (k : Nat) (s : State) : Prop :=
  ∀ j ≤ k, ∃ t, Sys2Proof.core.run j s = .next t ∧ t.isRunning

/-- The instruction a Running machine is about to execute. -/
def State.nextInstr (s : State) : Option Instr :=
  match s.fetchWord.map decodeWord with
  | some (.instr i) => some i
  | _ => none

/-- DT, as a number, at the end of a completed step whose execute phase left `dt` (40_engine.md R95). -/
def dtAfter (p : Config.Params) (dt : Byte) : Nat :=
  match p.dtDecay with
  | .perStep => dt.toNat - 1
  | .hostTick => dt.toNat

/-- Is the key with this code pressed? A code of 16 or more never is (44_input_timers.md R162, not_pressed). -/
def State.keyPressed (s : State) (code : Byte) : Bool :=
  if h : code.toNat < 16 then s.latch[code.toNat] else false

/-- Does a set bit of the sprite of height `n` at I, drawn at column `px` and row `py`, land on pixel (r, c) (43_index_display.md R143, R144)? -/
def State.spriteCovers (s : State) (px py : Byte) (n : Nat) (r : Fin 32) (c : Fin 64) : Bool :=
  (List.range n).any fun row => (List.range 8).any fun col =>
    (Memory.read s.mem (s.i.toNat + row)).getLsbD (7 - col) &&
      (r.val == (py.toNat + row) % 32 && c.val == (px.toNat + col) % 64)

end Sys2Proof.Machine

namespace Sys2Proof

open Machine

/-- The general registers an instruction may write (10_state.md R22, R39). -/
def Instr.writesReg : Instr → Reg → Bool
  | .ldImm x _, r | .addImm x _, r | .ldReg x _, r | .orReg x _, r | .andReg x _, r | .xorReg x _, r => r == x
  | .addReg x _, r | .subReg x _, r | .shr x _, r | .subnReg x _, r | .shl x _, r => r == x || r == VF
  | .rnd x _, r | .ldVxDT x, r | .ldVxK x, r => r == x
  | .drw _ _ _, r => r == VF
  | .cls, _ | .ret, _ | .jp _, _ | .call _, _ | .jpV0 _, _ | .ldI _, _ => false
  | .seImm _ _, _ | .sneImm _ _, _ | .seReg _ _, _ | .sneReg _ _, _ | .skp _, _ | .sknp _, _ => false
  | .ldDTVx _, _ | .ldSTVx _, _ | .reservedFx29 _, _ => false

/-- Does the instruction raise an error in its own step from this state (60_exceptions.md R201)? -/
def Instr.raisesIn : Instr → State → Prop
  | .call _, s => s.sp.val = 16
  | .ret, s => s.sp.val = 0
  | .drw _ _ n, s => 0 < n.val ∧ 4096 < s.i.toNat + n.val
  | .skp x, s | .sknp x, s => s.params.keyRange = .fault ∧ 16 ≤ (s.readV x).toNat
  | .reservedFx29 _, _ => True
  | .cls, _ | .jp _, _ | .jpV0 _, _ | .ldI _, _ | .rnd _ _, _ => False
  | .seImm _ _, _ | .sneImm _ _, _ | .seReg _ _, _ | .sneReg _ _, _ => False
  | .ldImm _ _, _ | .addImm _ _, _ | .ldReg _ _, _ | .orReg _ _, _ | .andReg _ _, _ | .xorReg _ _, _ => False
  | .addReg _ _, _ | .subReg _ _, _ | .shr _ _, _ | .subnReg _ _, _ | .shl _ _, _ => False
  | .ldVxDT _, _ | .ldVxK _, _ | .ldDTVx _, _ | .ldSTVx _, _ => False

/-- PC, as a number, after a completed step of the instruction (40_engine.md R94, 41_control_flow.md R107). -/
def Instr.nextPc (s : State) : Instr → Nat
  | .jp nnn | .call nnn => nnn.toNat
  | .jpV0 nnn => nnn.toNat + (s.readV 0).toNat
  | .ret => if h : s.sp.val = 0 then s.pc.toNat else (s.stack[s.sp.val - 1]'(by omega)).toNat
  | .seImm x kk => s.pc.toNat + if s.readV x = kk then 4 else 2
  | .sneImm x kk => s.pc.toNat + if s.readV x ≠ kk then 4 else 2
  | .seReg x y => s.pc.toNat + if s.readV x = s.readV y then 4 else 2
  | .sneReg x y => s.pc.toNat + if s.readV x ≠ s.readV y then 4 else 2
  | .skp x => s.pc.toNat + if s.keyPressed (s.readV x) then 4 else 2
  | .sknp x => s.pc.toNat + if s.keyPressed (s.readV x) then 2 else 4
  | .cls | .ldI _ | .rnd _ _ | .drw _ _ _ => s.pc.toNat + 2
  | .ldImm _ _ | .addImm _ _ | .ldReg _ _ | .orReg _ _ | .andReg _ _ | .xorReg _ _ => s.pc.toNat + 2
  | .addReg _ _ | .subReg _ _ | .shr _ _ | .subnReg _ _ | .shl _ _ => s.pc.toNat + 2
  | .ldVxDT _ | .ldVxK _ | .ldDTVx _ | .ldSTVx _ | .reservedFx29 _ => s.pc.toNat + 2

end Sys2Proof
end

