-- ==== Sys2Proof/Certificates/Slice0/Obligations.lean ====
section
/-! DEFINITION. The statements. A statement that rests on a decision of the spec (92_eei_decisions.md) or on a choice of the model says so and names it. -/

open Sys2Proof Sys2Proof.Machine

/-- Words of the spec's encodings decode to the instructions they stand for. The worked encodings of 30_encoding.md and a word of each other family decode as the spec says; group 0 and groups 5 and 9 follow the spec's decisions D9, D10, D11 (log 15). -/
def Obligations.SpecWordsDecodeToTheirInstructions : Prop :=
  decodeWord 0x8374#16 = .instr (.addReg 3 7) ∧ decodeWord 0xD015#16 = .instr (.drw 0 1 5) ∧
  decodeWord 0x12A4#16 = .instr (.jp 0x2A4#12) ∧ decodeWord 0xEC9E#16 = .instr (.skp 12) ∧
  decodeWord 0x5121#16 = .unknown 0x5121#16 ∧ decodeWord 0x800F#16 = .unknown 0x800F#16 ∧
  decodeWord 0x00EE#16 = .instr .ret ∧ decodeWord 0x01E0#16 = .unknown 0x01E0#16 ∧
  decodeWord 0x730A#16 = .instr (.addImm 3 0x0A#8) ∧ decodeWord 0xA212#16 = .instr (.ldI 0x212#12) ∧
  decodeWord 0xF329#16 = .instr (.reservedFx29 3) ∧ decodeWord 0xF107#16 = .instr (.ldVxDT 1)

/-- Decoding the encoding of any well-formed instruction gives it back, with every operand. Every instruction, with every operand value its fields admit, is what its own word and its own two bytes decode to, whatever bytes follow. The byte order is the spec's decision D1 (log 9). -/
def Obligations.DecodeOfEncodeGivesTheInstruction : Prop :=
  ∀ i : Instr, i.wellFormed = true →
    decodeWord (encode i) = .instr i ∧
    ∀ rest : List Byte, decodeBytes (encodeBytes i ++ rest) = .ok (i, rest)

/-- A word that decodes to an instruction is that instruction's encoding. No bit of a decoded word is dropped: the word is the encoding of what it decodes to, so each instruction has one word. That N counts in groups 5 and 9, and bits 11 to 8 in group 0, is the spec's decisions D9 and D10 (log 15). -/
def Obligations.EncodeOfDecodedGivesTheWord : Prop :=
  ∀ (w : Word) (i : Instr), decodeWord w = .instr i → encode i = w

/-- A decoded word matches its instruction's row of the opcode map, an unknown word matches none. Decoding agrees with the 30 rows of masks and matches in both directions. The rows of 0x00E0, 0x00EE, 5xy0, 9xy0 and Fx29 rest on the spec's decisions D9, D10, D11 (log 15). -/
def Obligations.DecodeFollowsTheOpcodeMap : Prop :=
  ∀ w : Word,
    (∀ i, decodeWord w = .instr i → opcodeRow i ∈ opcodeRows ∧ (opcodeRow i).matchesWord w = true) ∧
    (∀ u, decodeWord w = .unknown u → u = w ∧ ∀ row ∈ opcodeRows, row.matchesWord w = false)

/-- No word matches two rows of the opcode map. The opcode map is unambiguous: two of its rows that match one word are the same row. -/
def Obligations.NoWordMatchesTwoRows : Prop :=
  ∀ (w : Word), ∀ r ∈ opcodeRows, ∀ r' ∈ opcodeRows,
    r.matchesWord w = true → r'.matchesWord w = true → r = r'

/-- A step of a Running machine is exec of the instruction its two bytes at PC decode to. With the bytes at PC and PC + 1, high byte first (the spec's decision D1, log 9), decoding to i, step is exec of i at that state: exec does the PC advance and the decay, so step adds nothing around it. -/
def Obligations.StepRunsTheDecodedInstruction : Prop :=
  ∀ (s : State) (i : Instr), s.status = .running → s.pc.toNat ≤ 0xFFE →
    decodeWord (wordOfBytes (Memory.read s.mem s.pc.toNat) (Memory.read s.mem (s.pc.toNat + 1))) = .instr i →
    step s = exec i s

/-- A fetch at PC 0xFFF or above takes OutOfBoundsFetch and changes nothing but STATUS. The fetch range is checked at the start of the step that would fetch (the spec's decision D3, log 17). -/
def Obligations.FetchPastMemoryHalts : Prop :=
  ∀ s : State, s.status = .running → 0xFFF ≤ s.pc.toNat →
    step s = .next { s with status := .halted .outOfBoundsFetch ⟨s.pc, none, some s.pc⟩ }

/-- An unknown word raises UnknownOpcode(pc, word) with no state changed; any other selects its handler. The decode phase (R92). The word is the fetched one, high byte first (log 9). -/
def Obligations.UnknownWordHaltsAndKnownWordExecutes : Prop :=
  ∀ (s : State) (w : Word), s.status = .running → s.fetchWord = some w →
    (∀ u, decodeWord w = .unknown u →
      step s = .next { s with status := .halted .unknownOpcode ⟨s.pc, some w, none⟩ }) ∧
    (∀ i, decodeWord w = .instr i → step s = exec i s)

/-- A step that leaves the machine Halted changed nothing but STATUS, which records PC and the kind's info. Errors are precise (the spec's decisions D17 and D28, log 18): whatever the step raised, every field but STATUS is as before, the recorded pc is PC, and the info is the one the kind records. -/
def Obligations.RaisingStepCommitsOnlyStatus : Prop :=
  ∀ s t : State, step s = .next t → t.status ≠ .running →
    ∃ (kind : ErrorKind) (info : ErrorInfo),
      t = { s with status := .halted kind info } ∧ info.pc = s.pc ∧ kind.records info = true

/-- Exactly the listed instructions raise, in exactly the listed states. From a Running state, exec leaves the machine Running exactly when the instruction has no error there: 2nnn on a full stack, 00EE on an empty one, Dxyn past memory, Ex9E and ExA1 with a large code under KEY_RANGE_POLICY = fault, and Fx29 always (decisions D11, D12, D15; logs 15, 18). -/
def Obligations.ErrorsOfEachInstruction : Prop :=
  ∀ (i : Instr) (s t : State), s.status = .running → exec i s = .next t →
    (t.status = .running ↔ ¬ i.raisesIn s)

/-- A Halted machine has no step. When STATUS = Halted the core has no move (the spec's decision D17); the model answers the fault that carries the recorded error (log 3). -/
def Obligations.HaltedMachineHasNoStep : Prop :=
  ∀ (s : State) (kind : ErrorKind) (info : ErrorInfo), s.status = .halted kind info →
    step s = .fault (.halted kind info)

/-- A step of a Running machine always answers a next state, whatever memory and registers hold. Every error is a next state with STATUS Halted and a held step is a next state too (log 2), so no Running machine stops with a fault or a refusal. -/
def Obligations.RunningMachineAnswersANextState : Prop :=
  ∀ s : State, s.status = .running → ∃ t, step s = .next t

/-- PC after a completed step: the redirect's target, or PC + 2, with no wrap at 16 bits. A redirecting instruction leaves its target, a skip PC + 4 or PC + 2, every other PC + 2; the sums are of natural numbers. That the sum of Bnnn is not cut to 12 bits is the spec's decision D4, that no completed step starts above 0xFFE D3 (log 17); that 00EE takes the top entry as it is D25 (log 16); that Ex9E and ExA1 find a code of 16 and above not pressed D12 (log 18); that a held step has not completed D13 (log 2). -/
def Obligations.NextPcOfEveryCompletedStep : Prop :=
  ∀ (s t : State) (i : Instr), s.status = .running → s.nextInstr = some i → s.held = false →
    step s = .next t → t.status = .running →
    t.pc.toNat = i.nextPc s ∧ s.pc.toNat ≤ 0xFFE

/-- Under per_step every completed step ends with DT one lower, floored at 0; under host_tick with DT as the instruction left it. The decay comes after the execute phase, so Fx15 with value v ends at v - 1. It is the spec's decision D18 (log 19), both values of DT_DECAY. -/
def Obligations.DelayTimerDecaysOncePerCompletedStep : Prop :=
  ∀ (s t : State) (i : Instr), s.status = .running → s.nextInstr = some i → s.held = false →
    step s = .next t → t.status = .running →
    t.dt.toNat = dtAfter s.params (match i with
      | .ldDTVx x => s.readV x
      | _ => s.dt)

/-- A held Fx0A changes nothing until set_key, and the next step then stores the key and completes. The wait of Fx0A (the spec's decision D13). That the model's step answers the same state while held is its own choice (log 2). After the host presses one key the next step completes with that key's code in V[x], the latch not cleared, DT decayed once. -/
def Obligations.HeldStepWaitsForAKey : Prop :=
  ∀ (s : State) (x : Reg) (code : Nat), s.held = true → s.nextInstr = some (.ldVxK x) → code < 16 →
    step s = .next s ∧
    ∃ m t, s.setKey code true = some m ∧ step m = .next t ∧
      t = { m with v := t.v, pc := s.pc + 2#16, dt := t.dt, draws := s.draws + 1 } ∧
      (t.readV x).toNat = code ∧ (∀ y, y ≠ x → t.readV y = s.readV y) ∧
      t.dt.toNat = dtAfter s.params s.dt

/-- step() is done exactly when the machine is Running and not at an Fx0A with no key pressed; there it is held. The host's view of the step: a held call has not returned, and on a Halted machine it is no move (decisions D13, D17). Held is written out: Running, the next instruction an Fx0A, every latch bit clear. A step that is done leaves what the engine's step answers. -/
def Obligations.StepIsAMoveExactlyWhenEnabled : Prop :=
  ∀ S : Session,
    (S.machine.held = true ↔ S.machine.status = .running ∧
      (∃ x, S.machine.nextInstr = some (.ldVxK x)) ∧ ∀ k : Key, S.machine.latch[k] = false) ∧
    (S.move .step = .held ↔ S.machine.status = .running ∧
      (∃ x, S.machine.nextInstr = some (.ldVxK x)) ∧ ∀ k : Key, S.machine.latch[k] = false) ∧
    ((∃ T r, S.move .step = .done T r) ↔ S.machine.status = .running ∧
      ¬ ((∃ x, S.machine.nextInstr = some (.ldVxK x)) ∧ ∀ k : Key, S.machine.latch[k] = false)) ∧
    (S.move .step = .noMove .halted ↔ S.machine.status ≠ .running) ∧
    (∀ T r, S.move .step = .done T r → step S.machine = .next T.machine ∧ r = .stepped)

/-- 3xkk skips exactly when V[x] = kk, 4xkk exactly when not; PC and the decaying DT alone change. R103 and R104 with their encodings, for every register, VF included, and every immediate: each completes, and no register, flag or byte of memory changes. -/
def Obligations.SkipsOnAnImmediate : Prop :=
  ∀ (x : Reg) (kk : Byte) (s : State),
    (encode (.seImm x kk) &&& 0xF000#16 = 0x3000#16 ∧
      ∃ t, exec (.seImm x kk) s = .next t ∧
        t = { s with pc := if (s.readV x).toNat = kk.toNat then s.pc + 4#16 else s.pc + 2#16, dt := t.dt } ∧
        t.dt.toNat = dtAfter s.params s.dt) ∧
    (encode (.sneImm x kk) &&& 0xF000#16 = 0x4000#16 ∧
      ∃ t, exec (.sneImm x kk) s = .next t ∧
        t = { s with pc := if (s.readV x).toNat ≠ kk.toNat then s.pc + 4#16 else s.pc + 2#16, dt := t.dt } ∧
        t.dt.toNat = dtAfter s.params s.dt)

/-- 5xy0 skips exactly when V[x] = V[y], 9xy0 exactly when not; PC and the decaying DT alone change. For every pair of registers, X = Y included. That only N = 0 decodes to them is the spec's decision D9 (log 15). -/
def Obligations.SkipsOnTwoRegisters : Prop :=
  ∀ (x y : Reg) (s : State),
    (∃ t, exec (.seReg x y) s = .next t ∧
      t = { s with pc := if (s.readV x).toNat = (s.readV y).toNat then s.pc + 4#16 else s.pc + 2#16, dt := t.dt } ∧
      t.dt.toNat = dtAfter s.params s.dt) ∧
    (∃ t, exec (.sneReg x y) s = .next t ∧
      t = { s with pc := if (s.readV x).toNat ≠ (s.readV y).toNat then s.pc + 4#16 else s.pc + 2#16, dt := t.dt } ∧
      t.dt.toNat = dtAfter s.params s.dt)

/-- 1nnn leaves PC = nnn, Bnnn leaves PC = nnn + V0 with no mask; PC and the decaying DT alone change. The 16-bit sum of Bnnn is not cut to 12 bits (the spec's decision D4, log 17), so a target past memory is left in PC. -/
def Obligations.JumpsGoToTheirTargets : Prop :=
  ∀ (nnn : Addr12) (s : State),
    (∃ t, exec (.jp nnn) s = .next t ∧ t = { s with pc := t.pc, dt := t.dt } ∧
      t.pc.toNat = nnn.toNat ∧ t.dt.toNat = dtAfter s.params s.dt) ∧
    (∃ t, exec (.jpV0 nnn) s = .next t ∧ t = { s with pc := t.pc, dt := t.dt } ∧
      t.pc.toNat = nnn.toNat + (s.readV 0).toNat ∧ t.dt.toNat = dtAfter s.params s.dt)

/-- With SP below 16, 2nnn pushes PC + 2 at SP, raises SP by one and jumps; every other entry and register stays. SP as a count 0 to 16 is the spec's decision D30 (log 16). The entry is PC + 2 in 16 bits. -/
def Obligations.CallPushesTheReturnAddress : Prop :=
  ∀ (nnn : Addr12) (s : State), s.sp.val < 16 →
    ∃ t, exec (.call nnn) s = .next t ∧
      t = { s with stack := t.stack, sp := t.sp, pc := t.pc, dt := t.dt } ∧
      t.sp.val = s.sp.val + 1 ∧ t.pc.toNat = nnn.toNat ∧
      (∀ j : Fin 16, t.stack[j] = if j.val = s.sp.val then s.pc + 2#16 else s.stack[j]) ∧
      t.dt.toNat = dtAfter s.params s.dt

/-- With SP = 16, 2nnn takes StackOverflow and changes nothing but STATUS. The 17th nested call halts the machine; the stack does not wrap. -/
def Obligations.CallOnAFullStackHalts : Prop :=
  ∀ (nnn : Addr12) (s : State), s.sp.val = 16 →
    exec (.call nnn) s = .next { s with status := .halted .stackOverflow ⟨s.pc, none, none⟩ }

/-- With SP above 0, 00EE lowers SP by one and leaves the top entry in PC; every stack slot and register stays. The popped value is used as it is, and its slot keeps its value (decision D25, log 16). -/
def Obligations.ReturnPopsTheTopEntry : Prop :=
  ∀ (s : State) (k : Fin 16), s.sp.val = k.val + 1 →
    ∃ t, exec .ret s = .next t ∧
      t = { s with sp := t.sp, pc := s.stack[k], dt := t.dt } ∧
      t.sp.val = k.val ∧ t.dt.toNat = dtAfter s.params s.dt

/-- With SP = 0, 00EE takes StackUnderflow and changes nothing but STATUS. The error is raised before any write. -/
def Obligations.ReturnOnAnEmptyStackHalts : Prop :=
  ∀ s : State, s.sp.val = 0 →
    exec .ret s = .next { s with status := .halted .stackUnderflow ⟨s.pc, none, none⟩ }

/-- A return right after a call goes to the instruction after the call, with SP and every register as before it. The stack is last in, first out: what 2nnn pushed is what 00EE pops, at every depth from 0 to 15. -/
def Obligations.ReturnUndoesCall : Prop :=
  ∀ (nnn : Addr12) (s t : State), s.sp.val < 16 → exec (.call nnn) s = .next t →
    ∃ u, exec .ret t = .next u ∧
      u = { s with stack := t.stack, pc := s.pc + 2#16, dt := u.dt } ∧
      (∀ j : Fin 16, j.val ≠ s.sp.val → u.stack[j] = s.stack[j]) ∧
      u.dt.toNat = dtAfter s.params t.dt

/-- A jump to its own address repeats for ever without fault, changing DT alone. From a Running machine whose word at PC is the jump to PC, every number of steps leaves a Running machine equal to the start but for DT, which under per_step is lower by that number, floored at 0, and under host_tick is unchanged (decisions D18, D31; log 19). -/
def Obligations.SelfJumpRunsForEver : Prop :=
  ∀ (s : State) (nnn : Addr12), s.status = .running → s.nextInstr = some (.jp nnn) → s.pc.toNat = nnn.toNat →
    ∀ k : Nat, s.safeFor k ∧
      ∃ t, Sys2Proof.core.run k s = .next t ∧ t = { s with dt := t.dt } ∧
        t.dt.toNat = match s.params.dtDecay with
          | .perStep => s.dt.toNat - k
          | .hostTick => s.dt.toNat

/-- 6xkk leaves V[x] = kk; 7xkk leaves V[x] = V[x] + kk mod 256 with no flag; no other register changes. R120 and R121 with their encodings, for every register, VF included. -/
def Obligations.LoadAndAddImmediate : Prop :=
  ∀ (x : Reg) (kk : Byte) (s : State),
    (encode (.ldImm x kk) &&& 0xF000#16 = 0x6000#16 ∧
      ∃ t, exec (.ldImm x kk) s = .next t ∧
        t = { s with v := t.v, pc := s.pc + 2#16, dt := t.dt } ∧
        t.readV x = kk ∧ (∀ y, y ≠ x → t.readV y = s.readV y) ∧
        t.dt.toNat = dtAfter s.params s.dt) ∧
    (encode (.addImm x kk) &&& 0xF000#16 = 0x7000#16 ∧
      ∃ t, exec (.addImm x kk) s = .next t ∧
        t = { s with v := t.v, pc := s.pc + 2#16, dt := t.dt } ∧
        (t.readV x).toNat = ((s.readV x).toNat + kk.toNat) % 256 ∧ (∀ y, y ≠ x → t.readV y = s.readV y) ∧
        t.dt.toNat = dtAfter s.params s.dt)

/-- 8xy0 to 8xy3 leave V[y], or the OR, AND, XOR of V[x] and V[y] bit by bit, in V[x]; no other register changes. R122 to R125 with their encodings, for every pair of registers, X = Y and VF included: VF is written only when X = F. -/
def Obligations.CopyOrAndXor : Prop :=
  ∀ (x y : Reg) (s : State),
    (encode (.ldReg x y) &&& 0xF00F#16 = 0x8000#16 ∧
      ∃ t, exec (.ldReg x y) s = .next t ∧
        t = { s with v := t.v, pc := s.pc + 2#16, dt := t.dt } ∧
        (∀ j : Nat, (t.readV x).getLsbD j = (s.readV y).getLsbD j) ∧
        (∀ z, z ≠ x → t.readV z = s.readV z) ∧ t.dt.toNat = dtAfter s.params s.dt) ∧
    (encode (.orReg x y) &&& 0xF00F#16 = 0x8001#16 ∧
      ∃ t, exec (.orReg x y) s = .next t ∧
        t = { s with v := t.v, pc := s.pc + 2#16, dt := t.dt } ∧
        (∀ j : Nat, (t.readV x).getLsbD j = ((s.readV x).getLsbD j || (s.readV y).getLsbD j)) ∧
        (∀ z, z ≠ x → t.readV z = s.readV z) ∧ t.dt.toNat = dtAfter s.params s.dt) ∧
    (encode (.andReg x y) &&& 0xF00F#16 = 0x8002#16 ∧
      ∃ t, exec (.andReg x y) s = .next t ∧
        t = { s with v := t.v, pc := s.pc + 2#16, dt := t.dt } ∧
        (∀ j : Nat, (t.readV x).getLsbD j = ((s.readV x).getLsbD j && (s.readV y).getLsbD j)) ∧
        (∀ z, z ≠ x → t.readV z = s.readV z) ∧ t.dt.toNat = dtAfter s.params s.dt) ∧
    (encode (.xorReg x y) &&& 0xF00F#16 = 0x8003#16 ∧
      ∃ t, exec (.xorReg x y) s = .next t ∧
        t = { s with v := t.v, pc := s.pc + 2#16, dt := t.dt } ∧
        (∀ j : Nat, (t.readV x).getLsbD j = ((s.readV x).getLsbD j ^^ (s.readV y).getLsbD j)) ∧
        (∀ z, z ≠ x → t.readV z = s.readV z) ∧ t.dt.toNat = dtAfter s.params s.dt)

/-- 8xy4: VF ends as the carry of the 8-bit sum; V[x], unless it is VF, as the sum mod 256; no other register changes. The sum is written first and the carry last, so with X = F the carry stands (the spec's decision D8, log 14). -/
def Obligations.AddWithCarryOut : Prop :=
  ∀ (x y : Reg) (s : State),
    ∃ t, exec (.addReg x y) s = .next t ∧
      t = { s with v := t.v, pc := s.pc + 2#16, dt := t.dt } ∧
      (t.readV VF).toNat = (if 255 < (s.readV x).toNat + (s.readV y).toNat then 1 else 0) ∧
      (x ≠ VF → (t.readV x).toNat = ((s.readV x).toNat + (s.readV y).toNat) % 256) ∧
      (∀ z, z ≠ x → z ≠ VF → t.readV z = s.readV z) ∧
      t.dt.toNat = dtAfter s.params s.dt

/-- 8xy5 and 8xy7: VF = 1 exactly when the minuend is strictly greater, written first; then the difference mod 256. f is the flag. With x or y = F the difference reads the VF just written (the spec's decision D8, log 14); X = F leaves the difference in VF. Every corner case of the two rules is an instance. -/
def Obligations.SubtractWithStrictGreaterFlag : Prop :=
  ∀ (x y : Reg) (s : State),
    (∃ t, exec (.subReg x y) s = .next t ∧
      t = { s with v := t.v, pc := s.pc + 2#16, dt := t.dt } ∧
      (∃ f : Nat, f = (if (s.readV y).toNat < (s.readV x).toNat then 1 else 0) ∧
        (x ≠ VF → (t.readV VF).toNat = f) ∧
        (t.readV x).toNat =
          ((if x = VF then f else (s.readV x).toNat) + 256 - (if y = VF then f else (s.readV y).toNat)) % 256) ∧
      (∀ z, z ≠ x → z ≠ VF → t.readV z = s.readV z) ∧
      t.dt.toNat = dtAfter s.params s.dt) ∧
    (∃ t, exec (.subnReg x y) s = .next t ∧
      t = { s with v := t.v, pc := s.pc + 2#16, dt := t.dt } ∧
      (∃ f : Nat, f = (if (s.readV x).toNat < (s.readV y).toNat then 1 else 0) ∧
        (x ≠ VF → (t.readV VF).toNat = f) ∧
        (t.readV x).toNat =
          ((if y = VF then f else (s.readV y).toNat) + 256 - (if x = VF then f else (s.readV x).toNat)) % 256) ∧
      (∀ z, z ≠ x → z ≠ VF → t.readV z = s.readV z) ∧
      t.dt.toNat = dtAfter s.params s.dt)

/-- 8xy6 and 8xyE: VF takes the bit shifted out, then V[x] is shifted by one; Y is not read. With X = F the shift reads the VF just written, so 8xF6 leaves 0 and 8xFE leaves twice the bit (the spec's decision D8, log 14). -/
def Obligations.ShiftByOneBit : Prop :=
  ∀ (x y : Reg) (s : State),
    (∃ t, exec (.shr x y) s = .next t ∧
      t = { s with v := t.v, pc := s.pc + 2#16, dt := t.dt } ∧
      (x ≠ VF → (t.readV VF).toNat = (s.readV x).toNat % 2 ∧ (t.readV x).toNat = (s.readV x).toNat / 2) ∧
      (x = VF → (t.readV VF).toNat = 0) ∧
      (∀ z, z ≠ x → z ≠ VF → t.readV z = s.readV z) ∧
      t.dt.toNat = dtAfter s.params s.dt) ∧
    (∃ t, exec (.shl x y) s = .next t ∧
      t = { s with v := t.v, pc := s.pc + 2#16, dt := t.dt } ∧
      (x ≠ VF → (t.readV VF).toNat = (s.readV x).toNat / 128 ∧ (t.readV x).toNat = (s.readV x).toNat * 2 % 256) ∧
      (x = VF → (t.readV VF).toNat = 2 * ((s.readV VF).toNat / 128)) ∧
      (∀ z, z ≠ x → z ≠ VF → t.readV z = s.readV z) ∧
      t.dt.toNat = dtAfter s.params s.dt)

/-- Cxkk leaves a free byte ANDed with kk in V[x]; no other register changes. r is the step's free byte, of which nothing is known (log 4): each bit of V[x] under a 0 of kk is 0, under a 1 it is r's. The model's draw counter goes up by one (log 6). -/
def Obligations.RandomByteIsMasked : Prop :=
  ∀ (x : Reg) (kk : Byte) (s : State),
    ∃ (r : Byte) (t : State), exec (.rnd x kk) s = .next t ∧ r = Config.freeByte s.draws ∧
      t = { s with v := t.v, pc := s.pc + 2#16, dt := t.dt, draws := s.draws + 1 } ∧
      (∀ j : Nat, (t.readV x).getLsbD j = (r.getLsbD j && kk.getLsbD j)) ∧
      (∀ y, y ≠ x → t.readV y = s.readV y) ∧
      t.dt.toNat = dtAfter s.params s.dt

/-- Annn leaves I = nnn, never checked; no register, flag or byte of memory changes. R140 with its encoding. -/
def Obligations.LoadIndex : Prop :=
  ∀ (nnn : Addr12) (s : State),
    encode (.ldI nnn) &&& 0xF000#16 = 0xA000#16 ∧
    ∃ t, exec (.ldI nnn) s = .next t ∧
      t = { s with i := t.i, pc := s.pc + 2#16, dt := t.dt } ∧
      t.i.toNat = nnn.toNat ∧ t.dt.toNat = dtAfter s.params s.dt

/-- 00E0 clears all 2048 pixels and sets DIRTY; VF and every other register stay. That it sets DIRTY, even when nothing was set, is the spec's decision D7 (log 20). -/
def Obligations.ClearScreenClearsEveryPixel : Prop :=
  ∀ s : State, ∃ t, exec .cls s = .next t ∧
    t = { s with fb := t.fb, dirty := true, pc := s.pc + 2#16, dt := t.dt } ∧
    (∀ r c, t.fb.pixel r c = false) ∧ t.dt.toNat = dtAfter s.params s.dt

/-- Dxyn flips exactly the pixels that a set sprite bit lands on: byte row at I + row, bit 7 leftmost, wrapped. R143 and the wrap of R144: the nested loops of the draw come to one closed form, pixel by pixel. The sprite lies inside memory, or has no rows. -/
def Obligations.DrawFlipsExactlyTheSpritePixels : Prop :=
  ∀ (x y : Reg) (n : Fin 16) (s : State), (n.val = 0 ∨ s.i.toNat + n.val ≤ 4096) →
    ∃ t, exec (.drw x y n) s = .next t ∧
      ∀ (r : Fin 32) (c : Fin 64),
        t.fb.pixel r c = (s.fb.pixel r c ^^ s.spriteCovers (s.readV x) (s.readV y) n.val r c)

/-- Dxyn: VF = 1 exactly when a pixel went from set to unset, DIRTY set; no other register or byte changes. The coordinates are read before VF is written, N = 0 never faults and still sets DIRTY (decisions D7, D8; logs 14, 20). A collision is also the same as a set sprite bit on a set pixel. -/
def Obligations.DrawReportsCollisionAndChangesNothingElse : Prop :=
  ∀ (x y : Reg) (n : Fin 16) (s : State), (n.val = 0 ∨ s.i.toNat + n.val ≤ 4096) →
    ∃ t, exec (.drw x y n) s = .next t ∧
      t = { s with v := t.v, fb := t.fb, dirty := true, pc := s.pc + 2#16, dt := t.dt } ∧
      (t.readV VF = 0#8 ∨ t.readV VF = 1#8) ∧
      (t.readV VF = 1#8 ↔ ∃ r c, s.fb.pixel r c = true ∧ t.fb.pixel r c = false) ∧
      (t.readV VF = 1#8 ↔
        ∃ r c, s.fb.pixel r c = true ∧ s.spriteCovers (s.readV x) (s.readV y) n.val r c = true) ∧
      (∀ z, z ≠ VF → t.readV z = s.readV z) ∧
      t.dt.toNat = dtAfter s.params s.dt

/-- With N > 0 and I + N > 4096, Dxyn takes OutOfBoundsFetch(pc, addr = I) and changes nothing but STATUS. The bound is checked before anything is read or written (the spec's decision D15, log 18). -/
def Obligations.DrawPastMemoryHalts : Prop :=
  ∀ (x y : Reg) (n : Fin 16) (s : State), 0 < n.val → 4096 < s.i.toNat + n.val →
    exec (.drw x y n) s = .next { s with status := .halted .outOfBoundsFetch ⟨s.pc, none, some s.i⟩ }

/-- Ex9E skips exactly when the key V[x] is pressed, ExA1 exactly when not; PC and the decaying DT alone change. For every code under KEY_RANGE_POLICY = not_pressed, where a code of 16 or more is never pressed, and for every code below 16 under either policy (the spec's decision D12, log 18). -/
def Obligations.SkipsOnAKey : Prop :=
  ∀ (x : Reg) (s : State), (s.params.keyRange = .notPressed ∨ (s.readV x).toNat < 16) →
    (∃ t, exec (.skp x) s = .next t ∧
      t = { s with pc := if s.keyPressed (s.readV x) = true then s.pc + 4#16 else s.pc + 2#16, dt := t.dt } ∧
      t.dt.toNat = dtAfter s.params s.dt) ∧
    (∃ t, exec (.sknp x) s = .next t ∧
      t = { s with pc := if s.keyPressed (s.readV x) = true then s.pc + 2#16 else s.pc + 4#16, dt := t.dt } ∧
      t.dt.toNat = dtAfter s.params s.dt)

/-- Under KEY_RANGE_POLICY = fault, Ex9E and ExA1 with V[x] of 16 or more take OutOfBoundsFetch(pc, addr = code). Nothing but STATUS changes (the spec's decision D12, log 18). -/
def Obligations.LargeKeyCodeHaltsUnderTheFaultPolicy : Prop :=
  ∀ (x : Reg) (s : State) (a : Word), s.params.keyRange = .fault → 16 ≤ (s.readV x).toNat →
    a.toNat = (s.readV x).toNat →
    exec (.skp x) s = .next { s with status := .halted .outOfBoundsFetch ⟨s.pc, none, some a⟩ } ∧
    exec (.sknp x) s = .next { s with status := .halted .outOfBoundsFetch ⟨s.pc, none, some a⟩ }

/-- Fx07 leaves DT, as it is before this step's decay, in V[x]; no other register changes. R163 with its encoding; DT then decays. -/
def Obligations.ReadDelayTimer : Prop :=
  ∀ (x : Reg) (s : State),
    encode (.ldVxDT x) &&& 0xF0FF#16 = 0xF007#16 ∧
    ∃ t, exec (.ldVxDT x) s = .next t ∧
      t = { s with v := t.v, pc := s.pc + 2#16, dt := t.dt } ∧
      t.readV x = s.dt ∧ (∀ y, y ≠ x → t.readV y = s.readV y) ∧
      t.dt.toNat = dtAfter s.params s.dt

/-- Fx0A with a key pressed leaves the code of some pressed key in V[x]; with none pressed nothing changes. Which pressed key is a free value (the spec's decision D13, log 5): the statement holds for every choice. The latch is not cleared. With an empty latch the machine is held (log 2). -/
def Obligations.WaitForKeyStoresAPressedKey : Prop :=
  ∀ (x : Reg) (s : State),
    ((∃ k : Key, s.latch[k] = true) →
      ∃ (k : Key) (t : State), exec (.ldVxK x) s = .next t ∧ s.latch[k] = true ∧
        t = { s with v := t.v, pc := s.pc + 2#16, dt := t.dt, draws := s.draws + 1 } ∧
        (t.readV x).toNat = k.val ∧ (∀ y, y ≠ x → t.readV y = s.readV y) ∧
        t.dt.toNat = dtAfter s.params s.dt) ∧
    ((∀ k : Key, s.latch[k] = false) → exec (.ldVxK x) s = .next s)

/-- Fx15 sets DT from V[x] before the decay; Fx18 sets ST, which never decays; no other register changes. The decay of the same step follows the write of DT (decisions D18, D19; log 19). -/
def Obligations.SetTheTimers : Prop :=
  ∀ (x : Reg) (s : State),
    (∃ t, exec (.ldDTVx x) s = .next t ∧ t = { s with pc := s.pc + 2#16, dt := t.dt } ∧
      t.dt.toNat = dtAfter s.params (s.readV x)) ∧
    (∃ t, exec (.ldSTVx x) s = .next t ∧
      t = { s with st := s.readV x, pc := s.pc + 2#16, dt := t.dt } ∧
      t.dt.toNat = dtAfter s.params s.dt)

/-- Fx29 takes UnknownOpcode with its PC and its word, and changes nothing but STATUS. Its only behaviour is the error (the spec's decision D11, log 15); the word is the one that decodes to it. -/
def Obligations.ReservedFx29RaisesUnknownOpcode : Prop :=
  ∀ (x : Reg) (s : State) (w : Word), decodeWord w = .instr (.reservedFx29 x) →
    exec (.reservedFx29 x) s = .next { s with status := .halted .unknownOpcode ⟨s.pc, some w, none⟩ }

/-- No instruction, step or transaction but load changes a byte of memory; once load is closed memory is constant for the whole run. The only writer is load. A load and a step each close it (the spec's decision D22; log 12), and from then on every byte is constant, whatever the host does (that part is the spec's own inference). -/
def Obligations.OnlyLoadWritesMemory : Prop :=
  (∀ (i : Instr) (s t : State), exec i s = .next t → t.mem = s.mem) ∧
  (∀ s t : State, step s = .next t → ∀ a, Memory.read t.mem a = Memory.read s.mem a) ∧
  (∀ (S T : Session) (m : HostMove) (r : Reply), S.move m = .done T r → (∀ bytes, m ≠ .load bytes) →
    T.machine.mem = S.machine.mem) ∧
  (∀ (S T : Session) (m : HostMove) (r : Reply), S.move m = .done T r → (m = .step ∨ ∃ bytes, m = .load bytes) →
    T.loadOpen = false) ∧
  (∀ (S : Session) (moves : List HostMove), S.loadOpen = false → (S.run moves).machine.mem = S.machine.mem)

/-- An instruction changes no general register outside its write set; VF only as its flag or its named destination. The write sets of 10_state.md: V[x] where the instruction writes it, and VF for the five flag instructions and Dxyn. -/
def Obligations.RegistersOutsideTheWriteSetStay : Prop :=
  ∀ (i : Instr) (s t : State) (y : Reg), exec i s = .next t → i.writesReg y = false → t.readV y = s.readV y

/-- I changes only by Annn, ST only by Fx18, FB and DIRTY only by 00E0 and Dxyn, the stack only by 2nnn and 00EE. The write sets of the registers that are not general, over every instruction; every change of FB leaves DIRTY set (decision D7, log 20); the configuration and the latch never change. -/
def Obligations.OtherStateChangesOnlyByItsInstructions : Prop :=
  ∀ (i : Instr) (s t : State), exec i s = .next t →
    (t.i ≠ s.i → ∃ nnn, i = .ldI nnn) ∧
    (t.st ≠ s.st → ∃ x, i = .ldSTVx x) ∧
    (t.fb ≠ s.fb ∨ t.dirty ≠ s.dirty → (i = .cls ∨ ∃ x y n, i = .drw x y n) ∧ t.dirty = true) ∧
    (t.stack ≠ s.stack → ∃ nnn, i = .call nnn) ∧
    (t.sp ≠ s.sp → i = .ret ∨ ∃ nnn, i = .call nnn) ∧
    (t.draws ≠ s.draws → (∃ x kk, i = .rnd x kk) ∨ ∃ x, i = .ldVxK x) ∧
    t.params = s.params ∧ t.latch = s.latch

/-- Only set_key changes LATCH; only Ex9E, ExA1 and Fx0A can tell two latches apart. No step and no other transaction changes the latch. set_key with a code below 16 is done in either STATUS and adds or removes exactly its key; a code of 16 or more is no move (the spec's decision D21, log 22). Fx0A does not remove the key it reports, and any other instruction does the same whatever is pressed. -/
def Obligations.LatchBelongsToTheHost : Prop :=
  (∀ s t : State, step s = .next t → t.latch = s.latch) ∧
  (∀ (S T : Session) (m : HostMove) (r : Reply), S.move m = .done T r → (∀ c p, m ≠ .setKey c p) →
    T.machine.latch = S.machine.latch) ∧
  (∀ (S : Session) (code : Nat) (pressed : Bool), code < 16 →
    ∃ T, S.move (.setKey code pressed) = .done T .keySet ∧
      T = { S with machine := { S.machine with latch := T.machine.latch } } ∧
      ∀ k : Key, T.machine.latch[k] = if k.val = code then pressed else S.machine.latch[k]) ∧
  (∀ (S : Session) (code : Nat) (pressed : Bool), 16 ≤ code → S.move (.setKey code pressed) = .noMove .keyCode) ∧
  (∀ (i : Instr) (s t : State) (l : Latch), (∀ x, i ≠ .skp x) → (∀ x, i ≠ .sknp x) → (∀ x, i ≠ .ldVxK x) →
    exec i s = .next t → exec i { s with latch := l } = .next { t with latch := l })

/-- What ST and DIRTY hold changes nothing but ST and DIRTY themselves. No instruction reads ST or DIRTY (decisions D7 and D19, logs 19 and 20): two states that differ in them alone go to states that differ in them alone, a raised error included. -/
def Obligations.SoundTimerAndDirtyAreNeverRead : Prop :=
  ∀ (i : Instr) (s t : State) (a : Byte) (d : Bool), exec i s = .next t →
    ∃ t', exec i { s with st := a, dirty := d } = .next t' ∧ t' = { t with st := t'.st, dirty := t'.dirty }

/-- No transaction of the host and no step changes the configuration record. The record is fixed for the life of a machine instance; that State carries it is the model's choice (log 1). -/
def Obligations.ConfigurationNeverChanges : Prop :=
  ∀ (S : Session) (moves : List HostMove), (S.run moves).machine.params = S.machine.params

/-- Every step keeps I at most 0xFFF, and reset has it. I is at most 0xFFF in every state reachable under RESET_FILL = zero, since Annn writes 12 bits; a new machine of that configuration has I = 0 (log 7). -/
def Obligations.IndexStaysTwelveBits : Prop :=
  (∀ s t : State, s.i.toNat ≤ 0xFFF → step s = .next t → t.i.toNat ≤ 0xFFF) ∧
  State.reset.i.toNat ≤ 0xFFF

/-- Every step keeps the invariant: memory canonical, PC at most 0x10FE, occupied entries at most 0x1000, the error record sound. The headline invariant over all states, not only those a run reaches. That an error record keeps pc = PC rests on the spec's decision D28 (log 18). -/
def Obligations.StepKeepsTheInvariant : Prop :=
  ∀ s t : State, s.Inv → step s = .next t → t.Inv

/-- A new machine satisfies the invariant, under every configuration and every RESET_FILL draw; so does reset. The stack is empty, so the invariant holds whatever RESET_FILL = arbitrary draws (log 7). -/
def Obligations.NewMachineSatisfiesTheInvariant : Prop :=
  (∀ (p : Config.Params) (draw : Fill), (State.create p draw).Inv) ∧ State.reset.Inv

/-- Whatever the host does from creation on, the invariant holds, and memory is all zero until a load. Every interleaving of load, step, set_key, read_framebuffer, read_status and tick, under every configuration. Load being admitted once is the spec's decision D22 (log 12). -/
def Obligations.EveryReachableSessionSatisfiesTheInvariant : Prop :=
  ∀ S : Session, S.Reachable →
    S.machine.Inv ∧
    (S.loadOpen = true → S.machine.mem = []) ∧
    (∀ a, a < 0x200 ∨ 0x600 ≤ a → Memory.read S.machine.mem a = 0#8)

/-- Whatever the host does, a Halted machine stays Halted with the same error; only LATCH and DIRTY can still change. No transaction leaves Halted: step, load and tick are no moves there; set_key, read_framebuffer and read_status stay available (the spec's decision D17, logs 3 and 22). -/
def Obligations.HaltedIsFinal : Prop :=
  ∀ (S : Session) (kind : ErrorKind) (info : ErrorInfo), S.machine.status = .halted kind info →
    (∀ moves : List HostMove, (S.run moves).machine =
      { S.machine with latch := (S.run moves).machine.latch, dirty := (S.run moves).machine.dirty }) ∧
    S.move .step = .noMove .halted ∧
    (∀ bytes, S.move (.load bytes) = .noMove .halted) ∧
    S.move .tick = .noMove .halted ∧
    (∀ (code : Nat) (pressed : Bool), code < 16 → ∃ T, S.move (.setKey code pressed) = .done T .keySet) ∧
    (∃ T, S.move .readFramebuffer = .done T (.frame S.machine.fb S.machine.dirty)) ∧
    S.move .readStatus = .done S (.status (.halted kind info))

/-- A load copies at most 1024 bytes to 0x200 on and sets PC to 0x200; a longer image answers ProgramTooLarge and changes nothing. While load is open on a Running machine it is admitted, for every image length, 0 and 1024 included; no byte outside the image's place and no other state changes. That a failed load leaves STATUS is the spec's decision D32; that load is then closed is D22, and after a failed load the model's reading (log 12). -/
def Obligations.LoadPlacesTheImageAtProgBase : Prop :=
  ∀ (S : Session) (bytes : List Byte), Memory.wf S.machine.mem → S.loadOpen = true → S.machine.status = .running →
    (1024 < bytes.length → S.move (.load bytes) = .done ⟨S.machine, false⟩ .programTooLarge) ∧
    (bytes.length ≤ 1024 → ∃ t, S.move (.load bytes) = .done ⟨t, false⟩ .loaded ∧
      t = { S.machine with mem := t.mem, pc := 0x200#16 } ∧
      (∀ a, Memory.read t.mem a =
        if h : 0x200 ≤ a ∧ a < 0x200 + bytes.length then bytes[a - 0x200]'(by omega) else Memory.read S.machine.mem a))

/-- From creation on a load is admitted until the first load or step; after either no load is a move again. The boot order (the spec's decision D22): set_key, read_framebuffer, read_status and tick leave load open. That a load which fails also uses up the one load is the model's reading (log 12). -/
def Obligations.LoadIsAdmittedOnceBeforeTheFirstStep : Prop :=
  (∀ (p : Config.Params) (draw : Fill) (moves : List HostMove) (bytes : List Byte),
    (∀ m ∈ moves, m ≠ .step ∧ ∀ b, m ≠ .load b) →
    ∃ T r, ((Session.create p draw).run moves).move (.load bytes) = .done T r) ∧
  (∀ (S T : Session) (m : HostMove) (r : Reply), S.move m = .done T r → (m = .step ∨ ∃ bytes, m = .load bytes) →
    ∀ (moves : List HostMove) (bytes : List Byte), ∃ why, (T.run moves).move (.load bytes) = .noMove why)

/-- read_status() returns STATUS and changes nothing. R46, in either STATUS. -/
def Obligations.ReadStatusChangesNothing : Prop :=
  ∀ S : Session, S.move .readStatus = .done S (.status S.machine.status)

/-- read_framebuffer returns FB and DIRTY and clears DIRTY alone; tick lowers DT alone, floored at 0, and only under host_tick. DIRTY's clear point is the spec's decision D7 (log 20), tick its D18 (log 19). tick is no move under per_step or on a Halted machine. -/
def Obligations.ReadFramebufferAndTick : Prop :=
  (∀ S : Session, S.move .readFramebuffer =
    .done { S with machine := { S.machine with dirty := false } } (.frame S.machine.fb S.machine.dirty)) ∧
  (∀ S : Session, S.machine.params.dtDecay = .hostTick → S.machine.status = .running →
    ∃ T, S.move .tick = .done T .ticked ∧
      T = { S with machine := { S.machine with dt := T.machine.dt } } ∧
      T.machine.dt.toNat = S.machine.dt.toNat - 1) ∧
  (∀ S : Session, S.machine.params.dtDecay = .perStep ∨ S.machine.status ≠ .running →
    ∃ why, S.move .tick = .noMove why)

/-- A new machine, under every configuration: memory zero, PC 0x200, Running, SP 0, no pixel, DIRTY, no key, registers zero or as drawn. Memory, PC and STATUS are the source's own values; SP, FB, DIRTY and LATCH, and that V, I, DT, ST and STACK are 0 under RESET_FILL = zero and any values at all under arbitrary, are the spec's decisions D5 to D7, taken by the model (logs 7 and 8). Reset is the new machine of the default configuration. -/
def Obligations.ResetValues : Prop :=
  (∀ (p : Config.Params) (draw : Fill),
    (∀ a, Memory.read (State.create p draw).mem a = 0#8) ∧ (State.create p draw).pc = 0x200#16 ∧
    (State.create p draw).status = .running ∧ (State.create p draw).sp.val = 0 ∧
    (∀ r c, (State.create p draw).fb.pixel r c = false) ∧ (State.create p draw).dirty = true ∧
    (∀ k : Key, (State.create p draw).latch[k] = false) ∧ (State.create p draw).params = p ∧
    (p.resetFill = .zero →
      (∀ x, (State.create p draw).readV x = 0#8) ∧ (State.create p draw).i = 0#16 ∧ (State.create p draw).dt = 0#8 ∧
      (State.create p draw).st = 0#8 ∧ ∀ j : Fin 16, (State.create p draw).stack[j] = 0#16) ∧
    (p.resetFill = .arbitrary →
      (∀ x : Reg, (State.create p draw).readV x = draw.v[x]) ∧ (State.create p draw).i = draw.i ∧
      (State.create p draw).dt = draw.dt ∧ (State.create p draw).st = draw.st ∧
      ∀ j : Fin 16, (State.create p draw).stack[j] = draw.stack[j]) ∧
    Session.create p draw = ⟨State.create p draw, true⟩) ∧
  (∀ draw : Fill, State.reset = State.create ⟨.perStep, .notPressed, .zero⟩ draw)

/-- Every transaction of the host that is done keeps the session's invariant, and a new session has it. The invariant: the machine's own, memory all zero while load is open, and every byte outside 0x200 to 0x5FF zero. Over every session that meets it, not only those a run reaches. Load being admitted once is the spec's decision D22 (log 12). -/
def Obligations.EveryHostMoveKeepsTheSessionInvariant : Prop :=
  (∀ (p : Config.Params) (draw : Fill), (Session.create p draw).Inv) ∧
  (∀ (S T : Session) (m : HostMove) (r : Reply), S.Inv → S.move m = .done T r → T.Inv)
end

