-- ==== Sys2Proof/Laws/Memory.lean ====
section
/-! SUPPORT. Memory: a read after a write, the canonical form kept by every operation, and equal reads give equal memories. -/

namespace Sys2Proof.Machine

@[simp] theorem Memory.read_nil (a : Nat) : Memory.read [] a = 0#8 := rfl

theorem Memory.read_cons (b : Nat) (v : Byte) (m : Memory) (a : Nat) :
    Memory.read ((b, v) :: m) a = if a = b then v else Memory.read m a := rfl

/-- An address below every listed one reads as 0. -/
theorem Memory.read_eq_zero_of_lt (m : Memory) (a : Nat) (h : ∀ c ∈ m, a < c.1) : Memory.read m a = 0#8 := by
  induction m with
  | nil => rfl
  | cons c m ih =>
    obtain ⟨b, v⟩ := c
    have hb : a < b := h (b, v) (by simp)
    rw [Memory.read_cons, if_neg (by omega)]
    exact ih fun c hc => h c (by simp [hc])

/-- A byte written is read back, and every other address reads as before. -/
theorem Memory.read_set (m : Memory) (a a' : Nat) (v : Byte) (h : m.Pairwise fun c d => c.1 < d.1) :
    Memory.read (Memory.set m a v) a' = if a' = a then v else Memory.read m a' := by
  induction m with
  | nil => by_cases hv : v = 0#8 <;> simp [Memory.set, hv, Memory.read_cons]
  | cons c m ih =>
    obtain ⟨b, u⟩ := c
    rw [List.pairwise_cons] at h
    have below : ∀ x, x ≤ b → Memory.read m x = 0#8 := fun x hx =>
      Memory.read_eq_zero_of_lt m x fun c hc => Nat.lt_of_le_of_lt hx (h.1 c hc)
    simp only [Memory.set]
    split
    · have hz : Memory.read m a = 0#8 := below a (by omega)
      split; all_goals simp only [Memory.read_cons] <;> split <;> (try split) <;> simp_all
    · split
      · subst b
        have hz : Memory.read m a = 0#8 := below a (by omega)
        split <;> simp only [Memory.read_cons] <;> split <;> simp_all
      · simp only [Memory.read_cons, ih h.2]
        split <;> split <;> simp_all

/-- Every entry of a written memory is the written one or an old one. -/
theorem Memory.mem_set {m : Memory} {a : Nat} {v : Byte} {c : Host.Cell} (h : c ∈ Memory.set m a v) :
    (c = (a, v) ∧ v ≠ 0#8) ∨ c ∈ m := by
  induction m with
  | nil =>
    by_cases hv : v = 0#8 <;> simp [Memory.set, hv] at h
    simp [h, hv]
  | cons d m ih =>
    obtain ⟨b, u⟩ := d
    simp only [Memory.set] at h
    split at h
    · split at h <;> simp_all
    · split at h
      · split at h <;> simp_all
        tauto
      · rcases List.mem_cons.mp h with rfl | h
        · simp
        · rcases ih h with ⟨rfl, hv⟩ | h
          · exact .inl ⟨rfl, hv⟩
          · exact .inr (List.mem_cons_of_mem _ h)

theorem Memory.pairwise_set (m : Memory) (a : Nat) (v : Byte) (h : m.Pairwise fun c d => c.1 < d.1) :
    (Memory.set m a v).Pairwise fun c d => c.1 < d.1 := by
  induction m with
  | nil => by_cases hv : v = 0#8 <;> simp [Memory.set, hv]
  | cons c m ih =>
    obtain ⟨b, u⟩ := c
    have h' := h
    rw [List.pairwise_cons] at h
    simp only [Memory.set]
    split
    · rename_i hab
      split
      · exact h'
      · refine List.pairwise_cons.mpr ⟨fun d hd => ?_, h'⟩
        rcases List.mem_cons.mp hd with rfl | hd
        · exact hab
        · exact Nat.lt_trans hab (h.1 d hd)
    · split
      · rename_i hab
        subst hab
        split
        · exact h.2
        · exact List.pairwise_cons.mpr ⟨h.1, h.2⟩
      · refine List.pairwise_cons.mpr ⟨fun d hd => ?_, ih h.2⟩
        rcases Memory.mem_set hd with ⟨rfl, -⟩ | hd
        · simp only; omega
        · exact h.1 d hd

theorem Memory.wf_nil : Memory.wf [] := by simp [Memory.wf]

/-- A write keeps the canonical form (and writes nothing at an address that does not exist). -/
theorem Memory.wf_write {m : Memory} (h : Memory.wf m) (a : Nat) (v : Byte) : Memory.wf (Memory.write m a v) := by
  unfold Memory.write
  split
  · refine ⟨Memory.pairwise_set m a v h.1, fun c hc => ?_⟩
    rcases Memory.mem_set hc with ⟨rfl, hv⟩ | hc
    · exact ⟨by assumption, hv⟩
    · exact h.2 c hc
  · exact h

theorem Memory.wf_writeBytes {m : Memory} (h : Memory.wf m) (a : Nat) (bs : List Byte) : Memory.wf (Memory.writeBytes m a bs) := by
  induction bs generalizing m a with
  | nil => exact h
  | cons b bs ih => exact ih (Memory.wf_write h a b) (a + 1)

theorem Memory.read_write {m : Memory} (h : Memory.wf m) (a a' : Nat) (v : Byte) :
    Memory.read (Memory.write m a v) a' = if a' = a ∧ a < Config.memSize then v else Memory.read m a' := by
  unfold Memory.write
  split
  · rw [Memory.read_set m a a' v h.1]
    simp_all
  · simp_all

/-- Reading after a run of bytes was written: the byte of the run that lies there, else the old one. -/
theorem Memory.read_writeBytes {m : Memory} (h : Memory.wf m) (a : Nat) (bs : List Byte) (hb : a + bs.length ≤ Config.memSize) (a' : Nat) :
    Memory.read (Memory.writeBytes m a bs) a' = if a ≤ a' then (bs[a' - a]?).getD (Memory.read m a') else Memory.read m a' := by
  induction bs generalizing m a with
  | nil => simp [Memory.writeBytes]
  | cons b bs ih =>
    simp only [List.length_cons] at hb
    rw [Memory.writeBytes, ih (Memory.wf_write h a b) (a + 1) (by omega), Memory.read_write h]
    by_cases ha : a' = a
    · subst ha
      have : a' < Config.memSize := by omega
      simp [this]
    · by_cases hlt : a + 1 ≤ a'
      · have e : a' - a = (a' - (a + 1)) + 1 := by omega
        simp [ha, hlt, show a ≤ a' by omega, e]
      · simp [ha, hlt, show ¬ a ≤ a' by omega]

/-- Memories in canonical form that read alike are the same list. -/
theorem Memory.eq_of_read_eq {m m' : Memory} (h : Memory.wf m) (h' : Memory.wf m')
    (e : ∀ a, Memory.read m a = Memory.read m' a) : m = m' := by
  induction m generalizing m' with
  | nil =>
    cases m' with
    | nil => rfl
    | cons c m' =>
      obtain ⟨b, v⟩ := c
      have := e b
      simp only [Memory.read_nil, Memory.read_cons, if_true] at this
      exact absurd this.symm (h'.2 (b, v) (by simp)).2
  | cons c m ih =>
    obtain ⟨b, v⟩ := c
    have hv : v ≠ 0#8 := (h.2 (b, v) (by simp)).2
    cases m' with
    | nil =>
      have := e b
      simp only [Memory.read_nil, Memory.read_cons, if_true] at this
      exact absurd this hv
    | cons c' m' =>
      obtain ⟨b', v'⟩ := c'
      have hv' : v' ≠ 0#8 := (h'.2 (b', v') (by simp)).2
      have p := List.pairwise_cons.mp h.1
      have p' := List.pairwise_cons.mp h'.1
      have zero : ∀ a, a ≤ b → Memory.read m a = 0#8 := fun a ha =>
        Memory.read_eq_zero_of_lt m a fun c hc => Nat.lt_of_le_of_lt ha (p.1 c hc)
      have zero' : ∀ a, a ≤ b' → Memory.read m' a = 0#8 := fun a ha =>
        Memory.read_eq_zero_of_lt m' a fun c hc => Nat.lt_of_le_of_lt ha (p'.1 c hc)
      have hb : b = b' := by
        have e1 := e b
        have e2 := e b'
        simp only [Memory.read_cons, if_true] at e1 e2
        rcases Nat.lt_trichotomy b b' with hlt | heq | hgt
        · rw [if_neg (by omega), zero' b (by omega)] at e1
          exact absurd e1 hv
        · exact heq
        · rw [if_neg (by omega), zero b' (by omega)] at e2
          exact absurd e2.symm hv'
      subst hb
      have hvv : v = v' := by simpa [Memory.read_cons] using e b
      subst hvv
      have : m = m' := by
        refine ih ⟨p.2, fun c hc => h.2 c (by simp [hc])⟩ ⟨p'.2, fun c hc => h'.2 c (by simp [hc])⟩ fun a => ?_
        by_cases ha : a = b
        · subst ha; rw [zero a (Nat.le_refl _), zero' a (Nat.le_refl _)]
        · simpa [Memory.read_cons, ha] using e a
      rw [this]

theorem Memory.readBytes_two (m : Memory) (a : Nat) :
    Memory.readBytes m a 2 = if a + 2 ≤ Config.memSize then some [Memory.read m a, Memory.read m (a + 1)] else none := rfl

/-- The fetched word, and when there is one (20_memory.md R55, R58). -/
theorem State.fetchWord_eq (s : State) :
    s.fetchWord = if s.pc.toNat + 2 ≤ Config.memSize then
      some (wordOfBytes (Memory.read s.mem s.pc.toNat) (Memory.read s.mem (s.pc.toNat + 1))) else none := by
  unfold State.fetchWord
  rw [show Config.insnBytes = 2 from rfl, Memory.readBytes_two]
  split <;> rename_i h <;> split at h <;> simp_all

theorem wordOfBytes_split (w : Word) : wordOfBytes (highByte w) (lowByte w) = w := by
  unfold wordOfBytes highByte lowByte
  ext i hi
  simp only [BitVec.getElem_append, BitVec.getElem_extractLsb']
  split
  · simp [BitVec.getLsbD_eq_getElem hi]
  · rw [BitVec.getLsbD_eq_getElem (by omega)]
    congr 1
    omega

/-- A word placed at PC is the word fetched. -/
theorem State.fetchWord_withFetchWord (s : State) (hm : Memory.wf s.mem) (hp : s.pc.toNat ≤ 0xFFE) (nbits w : Nat) :
    (s.withFetchWord nbits w).fetchWord = some (tableWord nbits w) := by
  have hb : s.pc.toNat + 2 ≤ Config.memSize := by simp only [Config.memSize]; omega
  rw [State.fetchWord_eq]
  simp only [State.withFetchWord, hb, if_true]
  rw [Memory.read_writeBytes hm _ _ (by simpa using hb), Memory.read_writeBytes hm _ _ (by simpa using hb)]
  simp [wordOfBytes_split]

end Sys2Proof.Machine
end

