-- ==== Sys2Proof/Laws/State.lean ====
section
/-! SUPPORT. One lemma per field and update of State, and how a register read sees each update. -/

namespace Sys2Proof.Machine

variable (s : State)

/-! ### writeVF -/

@[simp] theorem State.writeVF_v (b : Byte) : (s.writeVF b).v = s.v.set VF b := rfl
@[simp] theorem State.writeVF_i (b : Byte) : (s.writeVF b).i = s.i := rfl
@[simp] theorem State.writeVF_pc (b : Byte) : (s.writeVF b).pc = s.pc := rfl
@[simp] theorem State.writeVF_dt (b : Byte) : (s.writeVF b).dt = s.dt := rfl
@[simp] theorem State.writeVF_st (b : Byte) : (s.writeVF b).st = s.st := rfl
@[simp] theorem State.writeVF_stack (b : Byte) : (s.writeVF b).stack = s.stack := rfl
@[simp] theorem State.writeVF_sp (b : Byte) : (s.writeVF b).sp = s.sp := rfl
@[simp] theorem State.writeVF_mem (b : Byte) : (s.writeVF b).mem = s.mem := rfl
@[simp] theorem State.writeVF_fb (b : Byte) : (s.writeVF b).fb = s.fb := rfl
@[simp] theorem State.writeVF_dirty (b : Byte) : (s.writeVF b).dirty = s.dirty := rfl
@[simp] theorem State.writeVF_latch (b : Byte) : (s.writeVF b).latch = s.latch := rfl
@[simp] theorem State.writeVF_status (b : Byte) : (s.writeVF b).status = s.status := rfl
@[simp] theorem State.writeVF_params (b : Byte) : (s.writeVF b).params = s.params := rfl
@[simp] theorem State.writeVF_draws (b : Byte) : (s.writeVF b).draws = s.draws := rfl

/-! ### writeV -/

@[simp] theorem State.writeV_v (x : Reg) (b : Byte) : (s.writeV x b).v = s.v.set x b := rfl
@[simp] theorem State.writeV_i (x : Reg) (b : Byte) : (s.writeV x b).i = s.i := rfl
@[simp] theorem State.writeV_pc (x : Reg) (b : Byte) : (s.writeV x b).pc = s.pc := rfl
@[simp] theorem State.writeV_dt (x : Reg) (b : Byte) : (s.writeV x b).dt = s.dt := rfl
@[simp] theorem State.writeV_st (x : Reg) (b : Byte) : (s.writeV x b).st = s.st := rfl
@[simp] theorem State.writeV_stack (x : Reg) (b : Byte) : (s.writeV x b).stack = s.stack := rfl
@[simp] theorem State.writeV_sp (x : Reg) (b : Byte) : (s.writeV x b).sp = s.sp := rfl
@[simp] theorem State.writeV_mem (x : Reg) (b : Byte) : (s.writeV x b).mem = s.mem := rfl
@[simp] theorem State.writeV_fb (x : Reg) (b : Byte) : (s.writeV x b).fb = s.fb := rfl
@[simp] theorem State.writeV_dirty (x : Reg) (b : Byte) : (s.writeV x b).dirty = s.dirty := rfl
@[simp] theorem State.writeV_latch (x : Reg) (b : Byte) : (s.writeV x b).latch = s.latch := rfl
@[simp] theorem State.writeV_status (x : Reg) (b : Byte) : (s.writeV x b).status = s.status := rfl
@[simp] theorem State.writeV_params (x : Reg) (b : Byte) : (s.writeV x b).params = s.params := rfl
@[simp] theorem State.writeV_draws (x : Reg) (b : Byte) : (s.writeV x b).draws = s.draws := rfl

/-! ### writeI -/

@[simp] theorem State.writeI_v (a : Word) : (s.writeI a).v = s.v := rfl
@[simp] theorem State.writeI_i (a : Word) : (s.writeI a).i = a := rfl
@[simp] theorem State.writeI_pc (a : Word) : (s.writeI a).pc = s.pc := rfl
@[simp] theorem State.writeI_dt (a : Word) : (s.writeI a).dt = s.dt := rfl
@[simp] theorem State.writeI_st (a : Word) : (s.writeI a).st = s.st := rfl
@[simp] theorem State.writeI_stack (a : Word) : (s.writeI a).stack = s.stack := rfl
@[simp] theorem State.writeI_sp (a : Word) : (s.writeI a).sp = s.sp := rfl
@[simp] theorem State.writeI_mem (a : Word) : (s.writeI a).mem = s.mem := rfl
@[simp] theorem State.writeI_fb (a : Word) : (s.writeI a).fb = s.fb := rfl
@[simp] theorem State.writeI_dirty (a : Word) : (s.writeI a).dirty = s.dirty := rfl
@[simp] theorem State.writeI_latch (a : Word) : (s.writeI a).latch = s.latch := rfl
@[simp] theorem State.writeI_status (a : Word) : (s.writeI a).status = s.status := rfl
@[simp] theorem State.writeI_params (a : Word) : (s.writeI a).params = s.params := rfl
@[simp] theorem State.writeI_draws (a : Word) : (s.writeI a).draws = s.draws := rfl

/-! ### writePC -/

@[simp] theorem State.writePC_v (a : Word) : (s.writePC a).v = s.v := rfl
@[simp] theorem State.writePC_i (a : Word) : (s.writePC a).i = s.i := rfl
@[simp] theorem State.writePC_pc (a : Word) : (s.writePC a).pc = a := rfl
@[simp] theorem State.writePC_dt (a : Word) : (s.writePC a).dt = s.dt := rfl
@[simp] theorem State.writePC_st (a : Word) : (s.writePC a).st = s.st := rfl
@[simp] theorem State.writePC_stack (a : Word) : (s.writePC a).stack = s.stack := rfl
@[simp] theorem State.writePC_sp (a : Word) : (s.writePC a).sp = s.sp := rfl
@[simp] theorem State.writePC_mem (a : Word) : (s.writePC a).mem = s.mem := rfl
@[simp] theorem State.writePC_fb (a : Word) : (s.writePC a).fb = s.fb := rfl
@[simp] theorem State.writePC_dirty (a : Word) : (s.writePC a).dirty = s.dirty := rfl
@[simp] theorem State.writePC_latch (a : Word) : (s.writePC a).latch = s.latch := rfl
@[simp] theorem State.writePC_status (a : Word) : (s.writePC a).status = s.status := rfl
@[simp] theorem State.writePC_params (a : Word) : (s.writePC a).params = s.params := rfl
@[simp] theorem State.writePC_draws (a : Word) : (s.writePC a).draws = s.draws := rfl

/-! ### writeDT -/

@[simp] theorem State.writeDT_v (b : Byte) : (s.writeDT b).v = s.v := rfl
@[simp] theorem State.writeDT_i (b : Byte) : (s.writeDT b).i = s.i := rfl
@[simp] theorem State.writeDT_pc (b : Byte) : (s.writeDT b).pc = s.pc := rfl
@[simp] theorem State.writeDT_dt (b : Byte) : (s.writeDT b).dt = b := rfl
@[simp] theorem State.writeDT_st (b : Byte) : (s.writeDT b).st = s.st := rfl
@[simp] theorem State.writeDT_stack (b : Byte) : (s.writeDT b).stack = s.stack := rfl
@[simp] theorem State.writeDT_sp (b : Byte) : (s.writeDT b).sp = s.sp := rfl
@[simp] theorem State.writeDT_mem (b : Byte) : (s.writeDT b).mem = s.mem := rfl
@[simp] theorem State.writeDT_fb (b : Byte) : (s.writeDT b).fb = s.fb := rfl
@[simp] theorem State.writeDT_dirty (b : Byte) : (s.writeDT b).dirty = s.dirty := rfl
@[simp] theorem State.writeDT_latch (b : Byte) : (s.writeDT b).latch = s.latch := rfl
@[simp] theorem State.writeDT_status (b : Byte) : (s.writeDT b).status = s.status := rfl
@[simp] theorem State.writeDT_params (b : Byte) : (s.writeDT b).params = s.params := rfl
@[simp] theorem State.writeDT_draws (b : Byte) : (s.writeDT b).draws = s.draws := rfl

/-! ### writeST -/

@[simp] theorem State.writeST_v (b : Byte) : (s.writeST b).v = s.v := rfl
@[simp] theorem State.writeST_i (b : Byte) : (s.writeST b).i = s.i := rfl
@[simp] theorem State.writeST_pc (b : Byte) : (s.writeST b).pc = s.pc := rfl
@[simp] theorem State.writeST_dt (b : Byte) : (s.writeST b).dt = s.dt := rfl
@[simp] theorem State.writeST_st (b : Byte) : (s.writeST b).st = b := rfl
@[simp] theorem State.writeST_stack (b : Byte) : (s.writeST b).stack = s.stack := rfl
@[simp] theorem State.writeST_sp (b : Byte) : (s.writeST b).sp = s.sp := rfl
@[simp] theorem State.writeST_mem (b : Byte) : (s.writeST b).mem = s.mem := rfl
@[simp] theorem State.writeST_fb (b : Byte) : (s.writeST b).fb = s.fb := rfl
@[simp] theorem State.writeST_dirty (b : Byte) : (s.writeST b).dirty = s.dirty := rfl
@[simp] theorem State.writeST_latch (b : Byte) : (s.writeST b).latch = s.latch := rfl
@[simp] theorem State.writeST_status (b : Byte) : (s.writeST b).status = s.status := rfl
@[simp] theorem State.writeST_params (b : Byte) : (s.writeST b).params = s.params := rfl
@[simp] theorem State.writeST_draws (b : Byte) : (s.writeST b).draws = s.draws := rfl

/-! ### markDirty -/

@[simp] theorem State.markDirty_v : (s.markDirty).v = s.v := rfl
@[simp] theorem State.markDirty_i : (s.markDirty).i = s.i := rfl
@[simp] theorem State.markDirty_pc : (s.markDirty).pc = s.pc := rfl
@[simp] theorem State.markDirty_dt : (s.markDirty).dt = s.dt := rfl
@[simp] theorem State.markDirty_st : (s.markDirty).st = s.st := rfl
@[simp] theorem State.markDirty_stack : (s.markDirty).stack = s.stack := rfl
@[simp] theorem State.markDirty_sp : (s.markDirty).sp = s.sp := rfl
@[simp] theorem State.markDirty_mem : (s.markDirty).mem = s.mem := rfl
@[simp] theorem State.markDirty_fb : (s.markDirty).fb = s.fb := rfl
@[simp] theorem State.markDirty_dirty : (s.markDirty).dirty = true := rfl
@[simp] theorem State.markDirty_latch : (s.markDirty).latch = s.latch := rfl
@[simp] theorem State.markDirty_status : (s.markDirty).status = s.status := rfl
@[simp] theorem State.markDirty_params : (s.markDirty).params = s.params := rfl
@[simp] theorem State.markDirty_draws : (s.markDirty).draws = s.draws := rfl

/-! ### writeFB -/

@[simp] theorem State.writeFB_v (fb : Framebuffer) : (s.writeFB fb).v = s.v := rfl
@[simp] theorem State.writeFB_i (fb : Framebuffer) : (s.writeFB fb).i = s.i := rfl
@[simp] theorem State.writeFB_pc (fb : Framebuffer) : (s.writeFB fb).pc = s.pc := rfl
@[simp] theorem State.writeFB_dt (fb : Framebuffer) : (s.writeFB fb).dt = s.dt := rfl
@[simp] theorem State.writeFB_st (fb : Framebuffer) : (s.writeFB fb).st = s.st := rfl
@[simp] theorem State.writeFB_stack (fb : Framebuffer) : (s.writeFB fb).stack = s.stack := rfl
@[simp] theorem State.writeFB_sp (fb : Framebuffer) : (s.writeFB fb).sp = s.sp := rfl
@[simp] theorem State.writeFB_mem (fb : Framebuffer) : (s.writeFB fb).mem = s.mem := rfl
@[simp] theorem State.writeFB_fb (fb : Framebuffer) : (s.writeFB fb).fb = fb := rfl
@[simp] theorem State.writeFB_dirty (fb : Framebuffer) : (s.writeFB fb).dirty = s.dirty := rfl
@[simp] theorem State.writeFB_latch (fb : Framebuffer) : (s.writeFB fb).latch = s.latch := rfl
@[simp] theorem State.writeFB_status (fb : Framebuffer) : (s.writeFB fb).status = s.status := rfl
@[simp] theorem State.writeFB_params (fb : Framebuffer) : (s.writeFB fb).params = s.params := rfl
@[simp] theorem State.writeFB_draws (fb : Framebuffer) : (s.writeFB fb).draws = s.draws := rfl

/-! ### countDraw -/

@[simp] theorem State.countDraw_v : (s.countDraw).v = s.v := rfl
@[simp] theorem State.countDraw_i : (s.countDraw).i = s.i := rfl
@[simp] theorem State.countDraw_pc : (s.countDraw).pc = s.pc := rfl
@[simp] theorem State.countDraw_dt : (s.countDraw).dt = s.dt := rfl
@[simp] theorem State.countDraw_st : (s.countDraw).st = s.st := rfl
@[simp] theorem State.countDraw_stack : (s.countDraw).stack = s.stack := rfl
@[simp] theorem State.countDraw_sp : (s.countDraw).sp = s.sp := rfl
@[simp] theorem State.countDraw_mem : (s.countDraw).mem = s.mem := rfl
@[simp] theorem State.countDraw_fb : (s.countDraw).fb = s.fb := rfl
@[simp] theorem State.countDraw_dirty : (s.countDraw).dirty = s.dirty := rfl
@[simp] theorem State.countDraw_latch : (s.countDraw).latch = s.latch := rfl
@[simp] theorem State.countDraw_status : (s.countDraw).status = s.status := rfl
@[simp] theorem State.countDraw_params : (s.countDraw).params = s.params := rfl
@[simp] theorem State.countDraw_draws : (s.countDraw).draws = s.draws + 1 := rfl

/-! ### raise -/

@[simp] theorem State.raise_v (k : ErrorKind) (w a : Option Word) : (s.raise k w a).v = s.v := rfl
@[simp] theorem State.raise_i (k : ErrorKind) (w a : Option Word) : (s.raise k w a).i = s.i := rfl
@[simp] theorem State.raise_pc (k : ErrorKind) (w a : Option Word) : (s.raise k w a).pc = s.pc := rfl
@[simp] theorem State.raise_dt (k : ErrorKind) (w a : Option Word) : (s.raise k w a).dt = s.dt := rfl
@[simp] theorem State.raise_st (k : ErrorKind) (w a : Option Word) : (s.raise k w a).st = s.st := rfl
@[simp] theorem State.raise_stack (k : ErrorKind) (w a : Option Word) : (s.raise k w a).stack = s.stack := rfl
@[simp] theorem State.raise_sp (k : ErrorKind) (w a : Option Word) : (s.raise k w a).sp = s.sp := rfl
@[simp] theorem State.raise_mem (k : ErrorKind) (w a : Option Word) : (s.raise k w a).mem = s.mem := rfl
@[simp] theorem State.raise_fb (k : ErrorKind) (w a : Option Word) : (s.raise k w a).fb = s.fb := rfl
@[simp] theorem State.raise_dirty (k : ErrorKind) (w a : Option Word) : (s.raise k w a).dirty = s.dirty := rfl
@[simp] theorem State.raise_latch (k : ErrorKind) (w a : Option Word) : (s.raise k w a).latch = s.latch := rfl
@[simp] theorem State.raise_status (k : ErrorKind) (w a : Option Word) : (s.raise k w a).status = .halted k ⟨s.pc, w, a⟩ := rfl
@[simp] theorem State.raise_params (k : ErrorKind) (w a : Option Word) : (s.raise k w a).params = s.params := rfl
@[simp] theorem State.raise_draws (k : ErrorKind) (w a : Option Word) : (s.raise k w a).draws = s.draws := rfl

/-! ### advance -/

@[simp] theorem State.advance_v : (s.advance).v = s.v := rfl
@[simp] theorem State.advance_i : (s.advance).i = s.i := rfl
@[simp] theorem State.advance_pc : (s.advance).pc = s.pc + 2#16 := rfl
@[simp] theorem State.advance_dt : (s.advance).dt = s.dt := rfl
@[simp] theorem State.advance_st : (s.advance).st = s.st := rfl
@[simp] theorem State.advance_stack : (s.advance).stack = s.stack := rfl
@[simp] theorem State.advance_sp : (s.advance).sp = s.sp := rfl
@[simp] theorem State.advance_mem : (s.advance).mem = s.mem := rfl
@[simp] theorem State.advance_fb : (s.advance).fb = s.fb := rfl
@[simp] theorem State.advance_dirty : (s.advance).dirty = s.dirty := rfl
@[simp] theorem State.advance_latch : (s.advance).latch = s.latch := rfl
@[simp] theorem State.advance_status : (s.advance).status = s.status := rfl
@[simp] theorem State.advance_params : (s.advance).params = s.params := rfl
@[simp] theorem State.advance_draws : (s.advance).draws = s.draws := rfl

/-! ### decay: DT alone, as the configuration says (40_engine.md R95) -/

@[simp] theorem State.decay_v : s.decay.v = s.v := by unfold State.decay; split <;> rfl
@[simp] theorem State.decay_i : s.decay.i = s.i := by unfold State.decay; split <;> rfl
@[simp] theorem State.decay_pc : s.decay.pc = s.pc := by unfold State.decay; split <;> rfl
@[simp] theorem State.decay_st : s.decay.st = s.st := by unfold State.decay; split <;> rfl
@[simp] theorem State.decay_stack : s.decay.stack = s.stack := by unfold State.decay; split <;> rfl
@[simp] theorem State.decay_sp : s.decay.sp = s.sp := by unfold State.decay; split <;> rfl
@[simp] theorem State.decay_mem : s.decay.mem = s.mem := by unfold State.decay; split <;> rfl
@[simp] theorem State.decay_fb : s.decay.fb = s.fb := by unfold State.decay; split <;> rfl
@[simp] theorem State.decay_dirty : s.decay.dirty = s.dirty := by unfold State.decay; split <;> rfl
@[simp] theorem State.decay_latch : s.decay.latch = s.latch := by unfold State.decay; split <;> rfl
@[simp] theorem State.decay_status : s.decay.status = s.status := by unfold State.decay; split <;> rfl
@[simp] theorem State.decay_params : s.decay.params = s.params := by unfold State.decay; split <;> rfl
@[simp] theorem State.decay_draws : s.decay.draws = s.draws := by unfold State.decay; split <;> rfl
theorem State.decay_dt_perStep (h : s.params.dtDecay = .perStep) : s.decay.dt = decayed s.dt := by
  simp [State.decay, h]
theorem State.decay_dt_hostTick (h : s.params.dtDecay = .hostTick) : s.decay = s := by
  simp [State.decay, h]

/-- One decay as a number: one lower, floored at 0 (R95). -/
theorem decayed_toNat (b : Byte) : (decayed b).toNat = b.toNat - 1 := by
  unfold decayed
  split
  · subst b; rfl
  · bv_omega

/-! ### reading a register after an update -/

@[simp] theorem State.readV_writeV_same (x : Reg) (b : Byte) : (s.writeV x b).readV x = b := by
  simp [State.readV]

theorem State.readV_writeV_ne {x y : Reg} (b : Byte) (h : y ≠ x) : (s.writeV x b).readV y = s.readV y := by
  have : x.val ≠ y.val := fun e => h (Fin.ext e.symm)
  simp [State.readV, this]

/-- The two cases at once. -/
theorem State.readV_writeV (x y : Reg) (b : Byte) : (s.writeV x b).readV y = if y = x then b else s.readV y := by
  split
  · subst y; simp
  · rename_i h; exact s.readV_writeV_ne b h

@[simp] theorem State.readV_writeI (x : Reg) (a : Word) : (s.writeI a).readV x = s.readV x := rfl
@[simp] theorem State.readV_writePC (x : Reg) (a : Word) : (s.writePC a).readV x = s.readV x := rfl
@[simp] theorem State.readV_writeDT (x : Reg) (b : Byte) : (s.writeDT b).readV x = s.readV x := rfl
@[simp] theorem State.readV_writeST (x : Reg) (b : Byte) : (s.writeST b).readV x = s.readV x := rfl
@[simp] theorem State.readV_markDirty (x : Reg) : (s.markDirty).readV x = s.readV x := rfl
@[simp] theorem State.readV_writeFB (x : Reg) (fb : Framebuffer) : (s.writeFB fb).readV x = s.readV x := rfl
@[simp] theorem State.readV_countDraw (x : Reg) : (s.countDraw).readV x = s.readV x := rfl
@[simp] theorem State.readV_raise (x : Reg) (k : ErrorKind) (w a : Option Word) : (s.raise k w a).readV x = s.readV x := rfl
@[simp] theorem State.readV_advance (x : Reg) : (s.advance).readV x = s.readV x := rfl
@[simp] theorem State.readV_decay (x : Reg) : s.decay.readV x = s.readV x := by simp [State.readV]

theorem State.readV_writeVF (y : Reg) (b : Byte) : (s.writeVF b).readV y = if y = VF then b else s.readV y :=
  s.readV_writeV VF y b

end Sys2Proof.Machine
end

