-- ==== Sys2Proof/Laws/Ops.lean ====
section
/-! SUPPORT. What each shared operation can do, said once: the stack, the skip, the key lookup, the free key, pixels, the sprite loops, the end of a step, and the step. -/

namespace Sys2Proof.Machine

/-! ### The return-address stack -/

theorem State.pop_empty {s : State} (h : s.sp.val = 0) : s.pop = none := by simp [State.pop, h]

/-- The pop of a stack that is not empty: the top entry, SP one lower, nothing else (41_control_flow.md R100). -/
theorem State.pop_some {s : State} (h : s.sp.val ≠ 0) :
    s.pop = some (s.stack[s.sp.val - 1]'(by omega), { s with sp := ⟨s.sp.val - 1, by omega⟩ }) := by
  simp [State.pop, h]

theorem State.push_full {s : State} (h : s.sp.val = 16) (a : Word) : s.push a = none := by simp [State.push, h]

/-- The push on a stack that is not full: the entry at SP, SP one higher, nothing else (R102). -/
theorem State.push_some {s : State} (h : s.sp.val < 16) (a : Word) :
    s.push a = some { s with stack := s.stack.set s.sp.val a h, sp := ⟨s.sp.val + 1, by omega⟩ } := by
  simp [State.push, h]

/-- A pushed entry is the one popped, and SP is back where it was. -/
theorem State.pop_of_push {s t : State} {a : Word} (h : s.push a = some t) : t.pop = some (a, { t with sp := s.sp }) := by
  unfold State.push at h
  split at h
  · cases h
    simp [State.pop]
  · cases h

/-! ### Skips and keys -/

/-- A skip completes, redirected, with PC alone changed (R107). -/
theorem State.skipIf_eq (s : State) (taken : Bool) :
    s.skipIf taken = .completed (s.writePC (if taken then s.pc + 4#16 else s.pc + 2#16)) true := rfl

theorem State.keyIn_small (s : State) {k : Byte} (h : k.toNat < 16) : s.keyIn k = some s.latch[k.toNat] := by
  simp [State.keyIn, h]

theorem State.keyIn_large (s : State) {k : Byte} (h : 16 ≤ k.toNat) :
    s.keyIn k = if s.params.keyRange = .notPressed then some false else none := by
  cases e : s.params.keyRange <;> simp [State.keyIn, Nat.not_lt.mpr h, e]

theorem Latch.mem_pressed (l : Latch) (k : Key) : k ∈ l.pressed ↔ l[k] = true := by
  simp [Latch.pressed]

/-- There is no key to draw exactly when none is pressed (44_input_timers.md R164). -/
theorem State.drawKey_eq_none_iff (s : State) : s.drawKey = none ↔ ∀ k : Key, s.latch[k] = false := by
  unfold State.drawKey
  rw [List.getElem?_eq_none_iff]
  constructor
  · intro h k
    by_contra hk
    have hm : k ∈ s.latch.pressed := (Latch.mem_pressed _ k).mpr (by simpa using hk)
    have hpos : 0 < s.latch.pressed.length := List.length_pos_of_mem hm
    exact absurd h (Nat.not_le.mpr (Nat.mod_lt _ hpos))
  · intro h
    have : s.latch.pressed = [] := List.eq_nil_iff_forall_not_mem.mpr fun k hk => by
      have := (Latch.mem_pressed _ k).mp hk
      simp [h k] at this
    simp [this]

/-- A drawn key is pressed (R164, R165 (b)). -/
theorem State.drawKey_pressed {s : State} {k : Key} (h : s.drawKey = some k) : s.latch[k] = true :=
  (Latch.mem_pressed _ k).mp (List.mem_of_getElem? h)

/-! ### Pixels -/

/-- A toggle flips its pixel and leaves every other alone. -/
theorem Framebuffer.pixel_toggle (fb : Framebuffer) (r r' : Fin 32) (c c' : Fin 64) :
    (fb.toggle r c).pixel r' c' = if r' = r ∧ c' = c then !fb.pixel r c else fb.pixel r' c' := by
  unfold Framebuffer.toggle Framebuffer.pixel
  by_cases hr : r' = r
  · subst hr
    by_cases hc : c' = c
    · subst hc; simp
    · have : c.val ≠ c'.val := fun e => hc (Fin.ext e.symm)
      simp [hc, this]
  · have : r.val ≠ r'.val := fun e => hr (Fin.ext e.symm)
    simp [hr, this]

@[simp] theorem Framebuffer.pixel_clear (r : Fin 32) (c : Fin 64) : Framebuffer.clear.pixel r c = false := by
  simp [Framebuffer.clear, Framebuffer.pixel]

/-- Framebuffers whose pixels agree are equal. -/
theorem Framebuffer.ext_pixel {fb fb' : Framebuffer} (h : ∀ r c, fb.pixel r c = fb'.pixel r c) : fb = fb' := by
  apply Vector.ext
  intro r hr
  apply Vector.ext
  intro c hc
  exact h ⟨r, hr⟩ ⟨c, hc⟩

/-- A sprite of one more row: the rows before, then that row (43_index_display.md R142). -/
theorem Canvas.drawSprite_succ (d : Canvas) (m : Memory) (i : Word) (n : Nat) (px py : Byte) :
    d.drawSprite m i (n + 1) px py =
      (d.drawSprite m i n px py).drawByte (Memory.read m (i.toNat + n)) px (spriteRow py n) := by
  simp [Canvas.drawSprite, List.range_succ]

@[simp] theorem Canvas.drawSprite_zero (d : Canvas) (m : Memory) (i : Word) (px py : Byte) :
    d.drawSprite m i 0 px py = d := rfl

/-! ### The end of a step -/

/-- What the end of a step can do: one of these four (40_engine.md R93 to R96). -/
theorem finish_cases (s t : State) (e : Execution) (h : finish s e = .next t) :
    (∃ u, e = .completed u false ∧ t = u.advance.decay) ∨
    (∃ u, e = .completed u true ∧ t = u.decay) ∨
    (∃ k w a, e = .raised k w a ∧ t = s.raise k w a) ∨
    (e = .held ∧ t = s) := by
  cases e with
  | completed u r => cases r <;> simp_all [finish, eq_comm]
  | raised k w a => simp_all [finish, eq_comm]
  | held => simp_all [finish]

/-! ### The execute phase of every instruction -/

/-- Phase 3 (40_engine.md R93), by instruction. -/
def execute : Instr → State → Execution
  | .cls => doCls
  | .ret => doRet
  | .jp nnn => doJp nnn
  | .call nnn => doCall nnn
  | .seImm x kk => doSeImm x kk
  | .sneImm x kk => doSneImm x kk
  | .seReg x y => doSeReg x y
  | .ldImm x kk => doLdImm x kk
  | .addImm x kk => doAddImm x kk
  | .ldReg x y => doLdReg x y
  | .orReg x y => doOrReg x y
  | .andReg x y => doAndReg x y
  | .xorReg x y => doXorReg x y
  | .addReg x y => doAddReg x y
  | .subReg x y => doSubReg x y
  | .shr x y => doShr x y
  | .subnReg x y => doSubnReg x y
  | .shl x y => doShl x y
  | .sneReg x y => doSneReg x y
  | .ldI nnn => doLdI nnn
  | .jpV0 nnn => doJpV0 nnn
  | .rnd x kk => doRnd x kk
  | .drw x y n => doDrw x y n
  | .skp x => doSkp x
  | .sknp x => doSknp x
  | .ldVxDT x => doLdVxDT x
  | .ldVxK x => doLdVxK x
  | .ldDTVx x => doLdDTVx x
  | .ldSTVx x => doLdSTVx x
  | .reservedFx29 x => doReservedFx29 x

/-- `exec` is the execute phase and the end of the step (R90). -/
theorem exec_eq_finish (i : Instr) (s : State) : exec i s = finish s (execute i s) := by
  cases i <;> rfl

/-- `exec` always answers a next state, one of four (R93). -/
theorem exec_cases (i : Instr) (s : State) :
    (∃ u, execute i s = .completed u false ∧ exec i s = .next u.advance.decay) ∨
    (∃ u, execute i s = .completed u true ∧ exec i s = .next u.decay) ∨
    (∃ k w a, execute i s = .raised k w a ∧ exec i s = .next (s.raise k w a)) ∨
    (execute i s = .held ∧ exec i s = .next s) := by
  rw [exec_eq_finish]
  cases h : execute i s with
  | completed u r => cases r <;> simp [finish]
  | raised k w a => simp [finish]
  | held => simp [finish]

/-! ### The step -/

/-- What a step can do, in the order of its checks (R90; 60_exceptions.md R203). -/
theorem step_cases (s : State) :
    (∃ k info, s.status = .halted k info ∧ step s = .fault (.halted k info)) ∨
    (s.status = .running ∧ s.fetchWord = none ∧ step s = .next (s.raise .outOfBoundsFetch none (some s.pc))) ∨
    (∃ w u, s.status = .running ∧ s.fetchWord = some w ∧ decodeWord w = .unknown u ∧
      step s = .next (s.raise .unknownOpcode (some u) none)) ∨
    (∃ w i, s.status = .running ∧ s.fetchWord = some w ∧ decodeWord w = .instr i ∧ step s = exec i s) := by
  unfold step
  cases hs : s.status with
  | halted k info => exact .inl ⟨k, info, rfl, rfl⟩
  | running =>
    cases hf : s.fetchWord with
    | none => exact .inr (.inl ⟨rfl, rfl, rfl⟩)
    | some w =>
      cases hd : decodeWord w with
      | unknown u => exact .inr (.inr (.inl ⟨w, u, rfl, rfl, hd, by simp only [hd]⟩))
      | instr i => exact .inr (.inr (.inr ⟨w, i, rfl, rfl, hd, by simp only [hd]⟩))

end Sys2Proof.Machine
end

