-- ==== Sys2Proof/Laws/Host.lean ====
section
/-! SUPPORT. One lemma per transaction of the host that says what it can do, and the induction over a sequence of transactions. -/

namespace Sys2Proof.Machine

/-! ### The transactions on a machine -/

/-- An image that fits goes to PROG_BASE, and PC with it (10_state.md R44). -/
theorem State.load_fits (s : State) {bytes : List Byte} (h : bytes.length ≤ 1024) :
    s.load bytes = some { s with mem := Memory.writeBytes s.mem 0x200 bytes, pc := 0x200#16 } := by
  simp [State.load, programWellFormed, h]

/-- An image that does not fit is ProgramTooLarge (R44). -/
theorem State.load_too_large (s : State) {bytes : List Byte} (h : 1024 < bytes.length) : s.load bytes = none := by
  simp [State.load, programWellFormed, h]

/-- A set_key that answers has set the latch alone (R43). -/
theorem State.setKey_some {s t : State} {code : Nat} {pressed : Bool} (h : s.setKey code pressed = some t) :
    ∃ hc : code < 16, t = { s with latch := s.latch.setKey ⟨code, hc⟩ pressed } := by
  unfold State.setKey at h
  split at h
  · exact ⟨‹_›, (Option.some.inj h).symm⟩
  · cases h

/-- What one key of the latch is after set_key (R43). -/
theorem Latch.getElem_setKey (l : Latch) (k k' : Key) (pressed : Bool) :
    (l.setKey k pressed)[k'] = if k' = k then pressed else l[k'] := by
  simp only [Latch.setKey, Fin.getElem_fin, Vector.getElem_set, Fin.val_inj, eq_comm]

/-- A tick that answers comes on a Running machine under host_tick and lowers DT alone (R47). -/
theorem State.tick_some {s t : State} (h : s.tick = some t) :
    s.params.dtDecay = .hostTick ∧ s.status = .running ∧ t = s.writeDT (decayed s.dt) := by
  unfold State.tick at h
  split at h
  · exact ⟨‹_›, ‹_›, (Option.some.inj h).symm⟩
  · cases h

/-! ### The moves of a session -/

/-- What a transaction that is done has done, one case per transaction, load's two (R40 to R47; 70_reset_and_hazards.md R231). -/
theorem Session.move_cases {S T : Session} {m : HostMove} {r : Reply} (h : S.move m = .done T r) :
    (∃ bytes t, m = .load bytes ∧ S.machine.status = .running ∧ S.loadOpen = true ∧
      S.machine.load bytes = some t ∧ T = ⟨t, false⟩ ∧ r = .loaded) ∨
    (∃ bytes, m = .load bytes ∧ S.machine.status = .running ∧ S.loadOpen = true ∧
      S.machine.load bytes = none ∧ T = ⟨S.machine, false⟩ ∧ r = .programTooLarge) ∨
    (∃ t, m = .step ∧ S.machine.held = false ∧ Sys2Proof.Machine.step S.machine = .next t ∧
      T = ⟨t, false⟩ ∧ r = .stepped) ∨
    (∃ code pressed t, m = .setKey code pressed ∧ S.machine.setKey code pressed = some t ∧
      T = { S with machine := t } ∧ r = .keySet) ∨
    (m = .readFramebuffer ∧ T = { S with machine := { S.machine with dirty := false } } ∧
      r = .frame S.machine.fb S.machine.dirty) ∨
    (m = .readStatus ∧ T = S ∧ r = .status S.machine.status) ∨
    (∃ t, m = .tick ∧ S.machine.tick = some t ∧ T = { S with machine := t } ∧ r = .ticked) := by
  cases m with
  | load bytes =>
    simp only [Session.move, Session.load] at h
    split at h
    · cases h
    · split at h
      · split at h
        · cases h; exact .inl ⟨_, _, rfl, ‹_›, ‹_›, ‹_›, rfl, rfl⟩
        · cases h; exact .inr (.inl ⟨_, rfl, ‹_›, ‹_›, ‹_›, rfl, rfl⟩)
      · cases h
  | step =>
    simp only [Session.move, Session.step] at h
    split at h
    · cases h
    · split at h
      · cases h; exact .inr (.inr (.inl ⟨_, rfl, Bool.eq_false_iff.mpr ‹_›, ‹_›, rfl, rfl⟩))
      · cases h
      · cases h
  | setKey code pressed =>
    simp only [Session.move, Session.setKey] at h
    split at h
    · cases h; exact .inr (.inr (.inr (.inl ⟨_, _, _, rfl, ‹_›, rfl, rfl⟩)))
    · cases h
  | readFramebuffer => cases h; exact .inr (.inr (.inr (.inr (.inl ⟨rfl, rfl, rfl⟩))))
  | readStatus => cases h; exact .inr (.inr (.inr (.inr (.inr (.inl ⟨rfl, rfl, rfl⟩)))))
  | tick =>
    simp only [Session.move, Session.tick] at h
    split at h
    · cases h; exact .inr (.inr (.inr (.inr (.inr (.inr ⟨_, rfl, ‹_›, rfl, rfl⟩)))))
    · cases h

/-- What every transaction that is done keeps, a sequence of transactions keeps (R41). -/
theorem Session.run_induction {P : Session → Prop}
    (keeps : ∀ S T m r, P S → S.move m = .done T r → P T) (S : Session) (moves : List HostMove) (h : P S) :
    P (S.run moves) := by
  induction moves generalizing S with
  | nil => exact h
  | cons m rest ih =>
    simp only [Session.run]
    split
    · exact ih _ (keeps _ _ _ _ h ‹_›)
    · exact ih _ h
    · exact ih _ h

end Sys2Proof.Machine
end

