-- ==== Sys2Proof/Laws/PerInstr.lean ====
section
/-! SUPPORT. Per instruction: the encoded word matches its row of the opcode map (30_encoding.md R86). -/

namespace Sys2Proof

/-- The masks keep the fixed bits of the three views and drop the operands (R71, R86). -/
theorem packNNN_mask (g : BitVec 4) (nnn : Addr12) : packNNN g nnn &&& 0xF000#16 = packNNN g 0 := by
  unfold packNNN
  apply BitVec.eq_of_getLsbD_eq
  intro i hi
  simp only [BitVec.getLsbD_and, BitVec.getLsbD_append]
  interval_cases i <;> simp

theorem packXKK_mask (g : BitVec 4) (x : Reg) (kk : Byte) : packXKK g x kk &&& 0xF000#16 = packXKK g 0 0 := by
  unfold packXKK
  apply BitVec.eq_of_getLsbD_eq
  intro i hi
  simp only [BitVec.getLsbD_and, BitVec.getLsbD_append]
  interval_cases i <;> simp

theorem packXKK_mask_kk (g : BitVec 4) (x : Reg) (kk : Byte) : packXKK g x kk &&& 0xF0FF#16 = packXKK g 0 kk := by
  unfold packXKK
  apply BitVec.eq_of_getLsbD_eq
  intro i hi
  simp only [BitVec.getLsbD_and, BitVec.getLsbD_append]
  interval_cases i <;> simp

theorem packXYN_mask (g : BitVec 4) (x y : Reg) (n : BitVec 4) : packXYN g x y n &&& 0xF000#16 = packXYN g 0 0 0 := by
  unfold packXYN
  apply BitVec.eq_of_getLsbD_eq
  intro i hi
  simp only [BitVec.getLsbD_and, BitVec.getLsbD_append]
  interval_cases i <;> simp

theorem packXYN_mask_n (g : BitVec 4) (x y : Reg) (n : BitVec 4) : packXYN g x y n &&& 0xF00F#16 = packXYN g 0 0 n := by
  unfold packXYN
  apply BitVec.eq_of_getLsbD_eq
  intro i hi
  simp only [BitVec.getLsbD_and, BitVec.getLsbD_append]
  interval_cases i <;> simp

/-- The word of the instruction matches its row (R86). -/
def Laws.MatchesRow.Statement (i : Instr) : Prop := encode i &&& (opcodeRow i).mask = (opcodeRow i).bits

theorem Laws.MatchesRow.cls : Laws.MatchesRow.Statement .cls := rfl
theorem Laws.MatchesRow.ret : Laws.MatchesRow.Statement .ret := rfl
theorem Laws.MatchesRow.jp (nnn : Addr12) : Laws.MatchesRow.Statement (.jp nnn) := (packNNN_mask ..).trans rfl
theorem Laws.MatchesRow.call (nnn : Addr12) : Laws.MatchesRow.Statement (.call nnn) := (packNNN_mask ..).trans rfl
theorem Laws.MatchesRow.seImm (x : Reg) (kk : Byte) : Laws.MatchesRow.Statement (.seImm x kk) := (packXKK_mask ..).trans rfl
theorem Laws.MatchesRow.sneImm (x : Reg) (kk : Byte) : Laws.MatchesRow.Statement (.sneImm x kk) := (packXKK_mask ..).trans rfl
theorem Laws.MatchesRow.seReg (x y : Reg) : Laws.MatchesRow.Statement (.seReg x y) := (packXYN_mask_n ..).trans rfl
theorem Laws.MatchesRow.ldImm (x : Reg) (kk : Byte) : Laws.MatchesRow.Statement (.ldImm x kk) := (packXKK_mask ..).trans rfl
theorem Laws.MatchesRow.addImm (x : Reg) (kk : Byte) : Laws.MatchesRow.Statement (.addImm x kk) := (packXKK_mask ..).trans rfl
theorem Laws.MatchesRow.ldReg (x y : Reg) : Laws.MatchesRow.Statement (.ldReg x y) := (packXYN_mask_n ..).trans rfl
theorem Laws.MatchesRow.orReg (x y : Reg) : Laws.MatchesRow.Statement (.orReg x y) := (packXYN_mask_n ..).trans rfl
theorem Laws.MatchesRow.andReg (x y : Reg) : Laws.MatchesRow.Statement (.andReg x y) := (packXYN_mask_n ..).trans rfl
theorem Laws.MatchesRow.xorReg (x y : Reg) : Laws.MatchesRow.Statement (.xorReg x y) := (packXYN_mask_n ..).trans rfl
theorem Laws.MatchesRow.addReg (x y : Reg) : Laws.MatchesRow.Statement (.addReg x y) := (packXYN_mask_n ..).trans rfl
theorem Laws.MatchesRow.subReg (x y : Reg) : Laws.MatchesRow.Statement (.subReg x y) := (packXYN_mask_n ..).trans rfl
theorem Laws.MatchesRow.shr (x y : Reg) : Laws.MatchesRow.Statement (.shr x y) := (packXYN_mask_n ..).trans rfl
theorem Laws.MatchesRow.subnReg (x y : Reg) : Laws.MatchesRow.Statement (.subnReg x y) := (packXYN_mask_n ..).trans rfl
theorem Laws.MatchesRow.shl (x y : Reg) : Laws.MatchesRow.Statement (.shl x y) := (packXYN_mask_n ..).trans rfl
theorem Laws.MatchesRow.sneReg (x y : Reg) : Laws.MatchesRow.Statement (.sneReg x y) := (packXYN_mask_n ..).trans rfl
theorem Laws.MatchesRow.ldI (nnn : Addr12) : Laws.MatchesRow.Statement (.ldI nnn) := (packNNN_mask ..).trans rfl
theorem Laws.MatchesRow.jpV0 (nnn : Addr12) : Laws.MatchesRow.Statement (.jpV0 nnn) := (packNNN_mask ..).trans rfl
theorem Laws.MatchesRow.rnd (x : Reg) (kk : Byte) : Laws.MatchesRow.Statement (.rnd x kk) := (packXKK_mask ..).trans rfl
theorem Laws.MatchesRow.drw (x y : Reg) (n : Fin 16) : Laws.MatchesRow.Statement (.drw x y n) := (packXYN_mask ..).trans rfl
theorem Laws.MatchesRow.skp (x : Reg) : Laws.MatchesRow.Statement (.skp x) := (packXKK_mask_kk ..).trans rfl
theorem Laws.MatchesRow.sknp (x : Reg) : Laws.MatchesRow.Statement (.sknp x) := (packXKK_mask_kk ..).trans rfl
theorem Laws.MatchesRow.ldVxDT (x : Reg) : Laws.MatchesRow.Statement (.ldVxDT x) := (packXKK_mask_kk ..).trans rfl
theorem Laws.MatchesRow.ldVxK (x : Reg) : Laws.MatchesRow.Statement (.ldVxK x) := (packXKK_mask_kk ..).trans rfl
theorem Laws.MatchesRow.ldDTVx (x : Reg) : Laws.MatchesRow.Statement (.ldDTVx x) := (packXKK_mask_kk ..).trans rfl
theorem Laws.MatchesRow.ldSTVx (x : Reg) : Laws.MatchesRow.Statement (.ldSTVx x) := (packXKK_mask_kk ..).trans rfl
theorem Laws.MatchesRow.reservedFx29 (x : Reg) : Laws.MatchesRow.Statement (.reservedFx29 x) := (packXKK_mask_kk ..).trans rfl

end Sys2Proof
end

