-- ==== Sys2Proof/Tests/Slice0.lean ====
section
/-! SUPPORT. The model's own tests, each from a vector of 95_test_vectors.md or a rule named beside it; then, for each statement with hypotheses, a state and operands that meet them. -/

namespace Sys2Proof.Tests

open Sys2Proof.Machine

/-- A new machine with PC set and an instruction word placed there. -/
def at' (pc w : Nat) (s : State) : State := (s.writePC (BitVec.ofNat 16 pc)).withFetchWord 16 w

/-- The machine after reset with some registers set. -/
def regs (l : List (Reg × Byte)) : State := l.foldl (fun s p => s.writeV p.1 p.2) State.reset

/-- A byte placed in memory. -/
def poke (s : State) (a : Nat) (b : Byte) : State := { s with mem := Memory.write s.mem a b }

/-- A key pressed. -/
def press (s : State) (k : Key) : State := { s with latch := s.latch.setKey k true }

/-- One step answers a next state with this property. -/
def ends (s : State) (p : State → Bool) : Bool :=
  match step s with
  | .next t => p t
  | .fault _ => false
  | .refused _ => false

/-- The configuration with host_tick and KEY_RANGE_POLICY = fault. -/
def otherParams : Config.Params := ⟨.hostTick, .fault, .zero⟩

/-- A Running machine with SP = `k` and a return address in each slot. -/
def stacked (k : Fin 17) : State := { State.reset with sp := k, stack := Vector.replicate 16 0x204#16 }

/-! ### The checks of WellFormed refuse an ill-formed term -/

theorem test_wf_program_1025 : programWellFormed (List.replicate 1025 0xAA#8) = false := by
  simp only [programWellFormed, List.length_replicate, Config.progMax]
  decide
theorem test_wf_program_1024 : programWellFormed (List.replicate 1024 0xAA#8) = true := by
  simp only [programWellFormed, List.length_replicate, Config.progMax]
  decide
theorem test_wf_key_16 : keyCodeWellFormed 16 = false := by decide
theorem test_wf_key_15 : keyCodeWellFormed 15 = true := by decide
theorem test_wf_memory_unsorted : ¬ Memory.wf [(2, 1#8), (1, 1#8)] := by decide
theorem test_wf_memory_zero : ¬ Memory.wf [(2, 0#8)] := by decide
theorem test_wf_memory_outside : ¬ Memory.wf [(4096, 1#8)] := by decide

/-! ### Decoding: one word per constructor, its digits written out from the patterns of 30_encoding.md R86 -/

theorem test_decode_cls : decodeWord 0x00E0#16 = .instr (.cls) ∧ encode (.cls) = 0x00E0#16 := by decide
theorem test_decode_ret : decodeWord 0x00EE#16 = .instr (.ret) ∧ encode (.ret) = 0x00EE#16 := by decide
theorem test_decode_jp : decodeWord 0x12A4#16 = .instr (.jp 0x2A4#12) ∧ encode (.jp 0x2A4#12) = 0x12A4#16 := by decide
theorem test_decode_call : decodeWord 0x2208#16 = .instr (.call 0x208#12) ∧ encode (.call 0x208#12) = 0x2208#16 := by decide
theorem test_decode_seImm : decodeWord 0x3207#16 = .instr (.seImm 2 0x07#8) ∧ encode (.seImm 2 0x07#8) = 0x3207#16 := by decide
theorem test_decode_sneImm : decodeWord 0x4C9A#16 = .instr (.sneImm 12 0x9A#8) ∧ encode (.sneImm 12 0x9A#8) = 0x4C9A#16 := by decide
theorem test_decode_seReg : decodeWord 0x5140#16 = .instr (.seReg 1 4) ∧ encode (.seReg 1 4) = 0x5140#16 := by decide
theorem test_decode_ldImm : decodeWord 0x652A#16 = .instr (.ldImm 5 0x2A#8) ∧ encode (.ldImm 5 0x2A#8) = 0x652A#16 := by decide
theorem test_decode_addImm : decodeWord 0x730A#16 = .instr (.addImm 3 0x0A#8) ∧ encode (.addImm 3 0x0A#8) = 0x730A#16 := by decide
theorem test_decode_ldReg : decodeWord 0x8120#16 = .instr (.ldReg 1 2) ∧ encode (.ldReg 1 2) = 0x8120#16 := by decide
theorem test_decode_orReg : decodeWord 0x8AB1#16 = .instr (.orReg 10 11) ∧ encode (.orReg 10 11) = 0x8AB1#16 := by decide
theorem test_decode_andReg : decodeWord 0x8122#16 = .instr (.andReg 1 2) ∧ encode (.andReg 1 2) = 0x8122#16 := by decide
theorem test_decode_xorReg : decodeWord 0x8F03#16 = .instr (.xorReg 15 0) ∧ encode (.xorReg 15 0) = 0x8F03#16 := by decide
theorem test_decode_addReg : decodeWord 0x8374#16 = .instr (.addReg 3 7) ∧ encode (.addReg 3 7) = 0x8374#16 := by decide
theorem test_decode_subReg : decodeWord 0x8125#16 = .instr (.subReg 1 2) ∧ encode (.subReg 1 2) = 0x8125#16 := by decide
theorem test_decode_shr : decodeWord 0x8F16#16 = .instr (.shr 15 1) ∧ encode (.shr 15 1) = 0x8F16#16 := by decide
theorem test_decode_subnReg : decodeWord 0x8127#16 = .instr (.subnReg 1 2) ∧ encode (.subnReg 1 2) = 0x8127#16 := by decide
theorem test_decode_shl : decodeWord 0x840E#16 = .instr (.shl 4 0) ∧ encode (.shl 4 0) = 0x840E#16 := by decide
theorem test_decode_sneReg : decodeWord 0x9AB0#16 = .instr (.sneReg 10 11) ∧ encode (.sneReg 10 11) = 0x9AB0#16 := by decide
theorem test_decode_ldI : decodeWord 0xA212#16 = .instr (.ldI 0x212#12) ∧ encode (.ldI 0x212#12) = 0xA212#16 := by decide
theorem test_decode_jpV0 : decodeWord 0xBF80#16 = .instr (.jpV0 0xF80#12) ∧ encode (.jpV0 0xF80#12) = 0xBF80#16 := by decide
theorem test_decode_rnd : decodeWord 0xC3F0#16 = .instr (.rnd 3 0xF0#8) ∧ encode (.rnd 3 0xF0#8) = 0xC3F0#16 := by decide
theorem test_decode_drw : decodeWord 0xD015#16 = .instr (.drw 0 1 5) ∧ encode (.drw 0 1 5) = 0xD015#16 := by decide
theorem test_decode_skp : decodeWord 0xEC9E#16 = .instr (.skp 12) ∧ encode (.skp 12) = 0xEC9E#16 := by decide
theorem test_decode_sknp : decodeWord 0xE0A1#16 = .instr (.sknp 0) ∧ encode (.sknp 0) = 0xE0A1#16 := by decide
theorem test_decode_ldVxDT : decodeWord 0xF107#16 = .instr (.ldVxDT 1) ∧ encode (.ldVxDT 1) = 0xF107#16 := by decide
theorem test_decode_ldVxK : decodeWord 0xF00A#16 = .instr (.ldVxK 0) ∧ encode (.ldVxK 0) = 0xF00A#16 := by decide
theorem test_decode_ldDTVx : decodeWord 0xF215#16 = .instr (.ldDTVx 2) ∧ encode (.ldDTVx 2) = 0xF215#16 := by decide
theorem test_decode_ldSTVx : decodeWord 0xF318#16 = .instr (.ldSTVx 3) ∧ encode (.ldSTVx 3) = 0xF318#16 := by decide
theorem test_decode_reservedFx29 : decodeWord 0xF329#16 = .instr (.reservedFx29 3) ∧ encode (.reservedFx29 3) = 0xF329#16 := by decide

/-- L2-DC-3, 4, 5, 8, 10, 12, 15, 18: unknown words. -/
theorem test_decode_unknown :
    [0x0000#16, 0x0123#16, 0x01E0#16, 0x5121#16, 0x9AB1#16, 0x8008#16, 0x800F#16, 0xE0A0#16, 0xF01E#16, 0xF0FF#16].all
      (fun w => decodeWord w = .unknown w) = true := by decide

theorem test_decode_bytes : decodeBytes [0x83#8, 0x74#8, 0x12#8] = .ok (.addReg 3 7, [0x12#8]) := by decide
theorem test_decode_too_short : decodeBytes [0x83#8] = .error .tooShort := by decide
theorem test_decode_table_word : decodeTableWord 16 0xD015 = some (.drw 0 1 5) := by decide
theorem test_opcode_map_rows : opcodeRows.length = 30 := by decide

/-! ### Engine (L2-EN, L2-EX) -/

/-- L2-EN-3. -/
theorem test_engine_odd_pc : ends (at' 0x201 0x6007 State.reset) (fun t => t.readV 0 == 7#8 && t.pc == 0x203#16) = true := by decide
/-- L2-EN-4. -/
theorem test_engine_top_of_memory : ends (at' 0xFFE 0x6105 State.reset) (fun t => t.readV 1 == 5#8 && t.pc == 0x1000#16) = true := by decide
/-- L2-EX-8, L2-EX-10. -/
theorem test_engine_fetch_fault : ends (State.reset.writePC 0xFFF#16) (fun t => t.status == .halted .outOfBoundsFetch ⟨0xFFF#16, none, some 0xFFF#16⟩) = true := by decide
/-- L2-EN-5. -/
theorem test_engine_unknown_no_decay : ends (at' 0x200 0x0123 (State.reset.writeDT 5#8)) (fun t => t.status == .halted .unknownOpcode ⟨0x200#16, some 0x0123#16, none⟩ && t.pc == 0x200#16 && t.dt == 5#8) = true := by decide
/-- L2-EN-1. -/
theorem test_engine_decay : ends (at' 0x200 0x6000 (State.reset.writeDT 5#8)) (fun t => t.dt == 4#8) = true := by decide
/-- L2-HO-6: a machine with no program. -/
theorem test_engine_empty_machine : ends (State.reset) (fun t => t.status == .halted .unknownOpcode ⟨0x200#16, some 0#16, none⟩) = true := by decide
/-- L2-EN-6. -/
theorem test_engine_halted_no_step :
    (match step (State.reset.raise .stackUnderflow none none) with
      | .fault (.halted k _) => k == .stackUnderflow
      | _ => false) = true := by decide
theorem test_error_codes : [ErrorKind.unknownOpcode, .stackOverflow, .stackUnderflow, .outOfBoundsFetch, .programTooLarge].map
    ErrorKind.code = [1, 2, 3, 4, 5] := by decide

/-! ### Control flow (L2-CF) -/

/-- L2-CF-1. -/
theorem test_jp : ends (at' 0x200 0x12A4 State.reset) (fun t => t.pc == 0x2A4#16) = true := by decide
/-- L2-CF-4. -/
theorem test_call : ends (at' 0x202 0x2208 State.reset) (fun t => t.stack[0] == 0x204#16 && t.sp == 1 && t.pc == 0x208#16) = true := by decide
/-- L2-CF-6. -/
theorem test_call_full : ends (at' 0x240 0x2300 (stacked 16)) (fun t => t.status == .halted .stackOverflow ⟨0x240#16, none, none⟩ && t.sp == 16 && t.pc == 0x240#16) = true := by decide
/-- L2-CF-5. -/
theorem test_ret : ends (at' 0x20A 0x00EE (stacked 1)) (fun t => t.sp == 0 && t.pc == 0x204#16 && t.stack[0] == 0x204#16) = true := by decide
/-- L2-CF-7. -/
theorem test_ret_empty : ends (at' 0x240 0x00EE State.reset) (fun t => t.status == .halted .stackUnderflow ⟨0x240#16, none, none⟩) = true := by decide
/-- L2-CF-9. -/
theorem test_se_imm : ends (at' 0x300 0x3207 (regs [(2, 0x07#8)])) (fun t => t.pc == 0x304#16) = true := by decide
/-- L2-CF-10. -/
theorem test_se_imm_not : ends (at' 0x300 0x3207 (regs [(2, 0x08#8)])) (fun t => t.pc == 0x302#16) = true := by decide
/-- L2-CF-11. -/
theorem test_sne_imm : ends (at' 0x300 0x4207 (regs [(2, 0x08#8)])) (fun t => t.pc == 0x304#16) = true := by decide
/-- L2-CF-14. -/
theorem test_se_reg : ends (at' 0x210 0x5140 (regs [(1, 0x33#8), (4, 0x34#8)])) (fun t => t.pc == 0x212#16) = true := by decide
/-- L2-CF-15. -/
theorem test_sne_reg : ends (at' 0x210 0x9140 (regs [(1, 0x33#8), (4, 0x34#8)])) (fun t => t.pc == 0x214#16) = true := by decide
/-- L2-CF-19. -/
theorem test_jp_v0 : ends (at' 0x200 0xBF80 (regs [(0, 0xFF#8)])) (fun t => t.pc == 0x107F#16) = true := by decide

/-! ### Registers, arithmetic and logic (L1, L2-AL) -/

/-- L2-AL-2. -/
theorem test_ld_imm : ends (at' 0x200 0x6F11 State.reset) (fun t => t.readV VF == 0x11#8) = true := by decide
/-- L1-1. -/
theorem test_add_imm : ends (at' 0x200 0x730A (regs [(3, 0xFA#8), (15, 0x77#8)])) (fun t => t.readV 3 == 0x04#8 && t.readV VF == 0x77#8) = true := by decide
/-- L2-AL-5. -/
theorem test_ld_reg : ends (at' 0x200 0x8120 (regs [(2, 0x99#8)])) (fun t => t.readV 1 == 0x99#8) = true := by decide
/-- L2-AL-6. -/
theorem test_or : ends (at' 0x200 0x8121 (regs [(1, 0x0F#8), (2, 0xF0#8), (15, 0x55#8)])) (fun t => t.readV 1 == 0xFF#8 && t.readV VF == 0x55#8) = true := by decide
/-- L2-AL-7. -/
theorem test_and : ends (at' 0x200 0x8122 (regs [(1, 0x3C#8), (2, 0x0F#8), (15, 0x55#8)])) (fun t => t.readV 1 == 0x0C#8 && t.readV VF == 0x55#8) = true := by decide
/-- L2-AL-8. -/
theorem test_xor : ends (at' 0x200 0x8123 (regs [(1, 0x3C#8), (2, 0x0F#8), (15, 0x55#8)])) (fun t => t.readV 1 == 0x33#8 && t.readV VF == 0x55#8) = true := by decide
/-- L1-2. -/
theorem test_add_carry : ends (at' 0x200 0x8124 (regs [(1, 0xC8#8), (2, 0x64#8)])) (fun t => t.readV 1 == 0x2C#8 && t.readV VF == 1#8) = true := by decide
/-- L2-AL-21. -/
theorem test_add_x_is_vf : ends (at' 0x200 0x8F14 (regs [(15, 0x10#8), (1, 0xF5#8)])) (fun t => t.readV VF == 1#8) = true := by decide
/-- L2-AL-13: strict greater. -/
theorem test_sub_equal : ends (at' 0x200 0x8125 (regs [(1, 7#8), (2, 7#8)])) (fun t => t.readV 1 == 0#8 && t.readV VF == 0#8) = true := by decide
/-- L2-AL-25. -/
theorem test_sub_y_is_vf : ends (at' 0x200 0x81F5 (regs [(1, 0x10#8), (15, 0x05#8)])) (fun t => t.readV 1 == 0x0F#8 && t.readV VF == 1#8) = true := by decide
/-- L2-AL-15. -/
theorem test_shr_low_bit : ends (at' 0x200 0x8306 (regs [(3, 0x03#8)])) (fun t => t.readV 3 == 0x01#8 && t.readV VF == 1#8) = true := by decide
/-- L2-AL-17. -/
theorem test_shr_y_ignored : ends (at' 0x200 0x8126 (regs [(1, 0x01#8), (2, 0xFF#8)])) (fun t => t.readV 1 == 0#8 && t.readV 2 == 0xFF#8) = true := by decide
/-- L2-AL-19. -/
theorem test_subn : ends (at' 0x200 0x8127 (regs [(1, 10#8), (2, 5#8)])) (fun t => t.readV 1 == 0xFB#8 && t.readV VF == 0#8) = true := by decide
/-- L2-AL-28. -/
theorem test_subn_x_is_vf : ends (at' 0x200 0x8F17 (regs [(15, 0x03#8), (1, 5#8)])) (fun t => t.readV VF == 0x04#8) = true := by decide
/-- L2-AL-31. -/
theorem test_shl : ends (at' 0x200 0x840E (regs [(4, 0x81#8)])) (fun t => t.readV 4 == 0x02#8 && t.readV VF == 1#8) = true := by decide
/-- L2-AL-33. -/
theorem test_shl_vf : ends (at' 0x200 0x8F0E (regs [(15, 0x80#8)])) (fun t => t.readV VF == 0x02#8) = true := by decide
/-- L2-AL-36: kk = 0 gives 0 whatever the free byte is. -/
theorem test_rnd_zero (s : State) (x : Reg) : ∃ t, exec (.rnd x 0#8) s = .next t ∧ t.readV x = 0#8 := by
  refine ⟨_, rfl, ?_⟩
  cases h : s.params.dtDecay <;>
    simp [State.decay, State.advance, State.countDraw, State.writeV, State.writePC, State.writeDT, State.readV, h]

/-! ### Index register, clear screen, sprites (L2-DS) -/

/-- L2-DS-1. -/
theorem test_ld_i : ends (at' 0x200 0xA212 State.reset) (fun t => t.i == 0x212#16) = true := by decide
/-- L2-DS-2. -/
theorem test_cls : ends (at' 0x200 0x00E0 { State.reset with fb := Framebuffer.clear.toggle 3 5, dirty := false }) (fun t => t.fb == Framebuffer.clear && t.dirty) = true := by decide
/-- L2-DS-4. -/
theorem test_drw_wrap : ends (poke ((at' 0x200 0xD011 (regs [(0, 0x3C#8), (1, 0x05#8)])).writeI 0x300#16) 0x300 0xFF#8) (fun t => ([60, 61, 62, 63, 0, 1, 2, 3].all fun c => t.fb.pixel 5 c) && !t.fb.pixel 5 4 && !t.fb.pixel 5 59 && t.readV VF == 0#8) = true := by decide
/-- L2-DS-8. -/
theorem test_drw_collision : ends (poke ((at' 0x200 0xD011 { State.reset with fb := Framebuffer.clear.toggle 0 0 }).writeI 0x300#16) 0x300 0xC0#8) (fun t => !t.fb.pixel 0 0 && t.fb.pixel 0 1 && t.readV VF == 1#8) = true := by decide
/-- L2-DS-10. -/
theorem test_drw_past_memory : ends ((at' 0x240 0xD012 State.reset).writeI 0xFFF#16) (fun t => t.status == .halted .outOfBoundsFetch ⟨0x240#16, none, some 0xFFF#16⟩ && t.pc == 0x240#16) = true := by decide
/-- L2-DS-9. -/
theorem test_drw_no_rows : ends ((at' 0x200 0xD010 { State.reset with dirty := false }).writeI 0xFFF#16) (fun t => t.status == .running && t.dirty && t.readV VF == 0#8) = true := by decide

/-! ### Input latch and timers (L2-TM) -/

/-- L2-TM-1. -/
theorem test_skp : ends (at' 0x206 0xE09E (press (regs [(0, 7#8)]) 7)) (fun t => t.pc == 0x20A#16) = true := by decide
/-- L2-TM-7. -/
theorem test_skp_large_code_fault : ends (at' 0x200 0xE09E { regs [(0, 0x10#8)] with params := otherParams }) (fun t => t.status == .halted .outOfBoundsFetch ⟨0x200#16, none, some 0x10#16⟩) = true := by decide
/-- L2-TM-4. -/
theorem test_sknp : ends (at' 0x206 0xE0A1 (press (regs [(0, 7#8)]) 7)) (fun t => t.pc == 0x208#16) = true := by decide
/-- L2-TM-6. -/
theorem test_sknp_large_code : ends (at' 0x200 0xE0A1 (press (regs [(0, 0x10#8)]) 0)) (fun t => t.pc == 0x204#16) = true := by decide
/-- L2-TM-8. -/
theorem test_ld_vx_dt : ends (at' 0x200 0xF107 (State.reset.writeDT 0x2A#8)) (fun t => t.readV 1 == 0x2A#8 && t.dt == 0x29#8) = true := by decide
/-- L2-TM-10. -/
theorem test_ld_vx_k_held : ends (at' 0x200 0xF00A (State.reset.writeDT 5#8)) (fun t => t.pc == 0x200#16 && t.dt == 5#8) = true := by decide
/-- L2-TM-14. -/
theorem test_ld_dt : ends (at' 0x200 0xF015 (regs [(0, 0x2A#8)])) (fun t => t.dt == 0x29#8) = true := by decide
/-- L2-TM-15. -/
theorem test_ld_dt_host_tick : ends (at' 0x200 0xF015 { regs [(0, 0x2A#8)] with params := otherParams }) (fun t => t.dt == 0x2A#8) = true := by decide
/-- L2-TM-18. -/
theorem test_ld_st : ends (at' 0x200 0xF218 (regs [(2, 0x10#8)])) (fun t => t.st == 0x10#8) = true := by decide
/-- L2-TM-19. -/
theorem test_reserved_fx29 : ends (at' 0x240 0xF329 State.reset) (fun t => t.status == .halted .unknownOpcode ⟨0x240#16, some 0xF329#16, none⟩) = true := by decide
/-- L1-8: at the level of the handlers, with no decay between, Fx15 and then Fx07 give the value back. -/
theorem test_handler_round_trip (s : State) : ∃ t u, doLdDTVx 0 s = .completed t false ∧
    doLdVxDT 1 t = .completed u false ∧ u.readV 1 = s.readV 0 :=
  ⟨_, _, rfl, rfl, by simp [State.readV, State.writeV, State.writeDT]⟩

/-- L2-TM-11: one key pressed is the key stored. -/
theorem test_ld_vx_k_one_key : ∃ t, step (at' 0x200 0xF00A (press State.reset 7)) = .next t ∧ t.readV 0 = 7#8 ∧ t.pc = 0x202#16 := by
  have hl : (at' 0x200 0xF00A (press State.reset 7)).latch.pressed = [7] := by decide
  have hk : (at' 0x200 0xF00A (press State.reset 7)).drawKey = some 7 := by
    simp only [State.drawKey, hl, List.length_singleton, Nat.mod_one]
    rfl
  have hs : step (at' 0x200 0xF00A (press State.reset 7)) = exec (.ldVxK 0) (at' 0x200 0xF00A (press State.reset 7)) := rfl
  rw [hs]
  simp only [exec, execLdVxK, doLdVxK, hk, finish]
  exact ⟨_, rfl, by decide, by decide⟩

/-! ### Host transactions (L2-HO, L1-7) -/

theorem test_load_too_large : State.reset.load (List.replicate 1025 0xAA#8) = none := by
  simp only [State.load, test_wf_program_1025, Bool.false_eq_true, if_false]
theorem test_load_image : (State.reset.load [0x22#8, 0x00#8, 0xFF#8]).map (fun t => (t.mem, t.pc)) =
    some ([(0x200, 0x22#8), (0x202, 0xFF#8)], 0x200#16) := by decide
theorem test_set_key_refused : State.reset.setKey 16 true = none := by decide
theorem test_set_key_twice : (((State.reset.setKey 3 true).bind (·.setKey 3 true)).bind (·.setKey 3 false)) = some State.reset := by decide
theorem test_tick_floor : (State.tick { State.reset with params := otherParams }).map State.dt = some 0#8 := by decide
theorem test_tick_per_step : State.reset.tick = none := by decide
theorem test_second_load : ((Session.create Config.Params.default Fill.zero).run [.load [0x12#8, 0x00#8], .load [0xFF#8]]).machine.mem =
    [(0x200, 0x12#8)] := by decide

/-! ### Witnesses: the hypotheses of each statement are met together -/

theorem witness_DecodeOfEncodeGivesTheInstruction :
    (Instr.drw 15 15 15).wellFormed = true := by decide
theorem witness_EncodeOfDecodedGivesTheWord :
    decodeWord 0xDFFF#16 = .instr (.drw 15 15 15) := by decide
theorem witness_DecodeFollowsTheOpcodeMap :
    decodeWord 0xF9FF#16 = .unknown 0xF9FF#16 ∧ decodeWord 0xF018#16 = .instr (.ldSTVx 0) := by decide
theorem witness_NoWordMatchesTwoRows :
    (⟨0xF00F#16, 0x800E#16⟩ : OpcodeRow) ∈ opcodeRows ∧ OpcodeRow.matchesWord ⟨0xF00F#16, 0x800E#16⟩ 0x8FFE#16 = true := by decide
theorem witness_StepRunsTheDecodedInstruction :
    (at' 0xFFE 0x6105 State.reset).status = .running ∧ (at' 0xFFE 0x6105 State.reset).pc.toNat ≤ 0xFFE ∧
      decodeWord (wordOfBytes (Memory.read (at' 0xFFE 0x6105 State.reset).mem 0xFFE) (Memory.read (at' 0xFFE 0x6105 State.reset).mem 0xFFF)) =
        .instr (.ldImm 1 5) := by decide
theorem witness_FetchPastMemoryHalts :
    (State.reset.writePC 0xFFF#16).status = .running ∧ 0xFFF ≤ (State.reset.writePC 0xFFF#16).pc.toNat := by decide
theorem witness_UnknownWordHaltsAndKnownWordExecutes_unknown :
    (at' 0x200 0x5121 State.reset).status = .running ∧ (at' 0x200 0x5121 State.reset).fetchWord = some 0x5121#16 ∧
      decodeWord 0x5121#16 = .unknown 0x5121#16 := by decide
theorem witness_UnknownWordHaltsAndKnownWordExecutes_known :
    (at' 0x200 0x5120 State.reset).status = .running ∧ (at' 0x200 0x5120 State.reset).fetchWord = some 0x5120#16 ∧ decodeWord 0x5120#16 = .instr (.seReg 1 2) := by decide
theorem witness_RaisingStepCommitsOnlyStatus :
    ∃ t, step State.reset = .next t ∧ t.status ≠ .running := ⟨_, rfl, by decide⟩
theorem witness_ErrorsOfEachInstruction_raises :
    ∃ t, (stacked 16).status = .running ∧ exec (.call 0) (stacked 16) = .next t ∧ (Instr.call 0).raisesIn (stacked 16) := ⟨_, rfl, rfl, rfl⟩
theorem witness_ErrorsOfEachInstruction_completes :
    ∃ t, (stacked 15).status = .running ∧ exec (.call 0) (stacked 15) = .next t ∧ ¬ (Instr.call 0).raisesIn (stacked 15) := ⟨_, rfl, rfl, by simp [Instr.raisesIn, stacked]⟩
theorem witness_HaltedMachineHasNoStep :
    (State.reset.raise .stackOverflow none none).status = .halted .stackOverflow ⟨0x200#16, none, none⟩ := by decide
theorem witness_RunningMachineAnswersANextState :
    State.reset.status = .running := by decide
/-- A taken skip at the top of memory. -/
theorem witness_NextPcOfEveryCompletedStep :
    ∃ t, (at' 0xFFE 0x3000 State.reset).status = .running ∧ (at' 0xFFE 0x3000 State.reset).nextInstr = some (.seImm 0 0) ∧
      (at' 0xFFE 0x3000 State.reset).held = false ∧ step (at' 0xFFE 0x3000 State.reset) = .next t ∧ t.status = .running := ⟨_, by decide, by decide, by decide, rfl, by decide⟩
/-- Fx15, and any other instruction. -/
theorem witness_DelayTimerDecaysOncePerCompletedStep :
    (∃ t, (at' 0x200 0xF015 State.reset).status = .running ∧ (at' 0x200 0xF015 State.reset).nextInstr = some (.ldDTVx 0) ∧
      (at' 0x200 0xF015 State.reset).held = false ∧ step (at' 0x200 0xF015 State.reset) = .next t ∧ t.status = .running) ∧
    ∃ t, (at' 0x200 0xF007 State.reset).status = .running ∧ (at' 0x200 0xF007 State.reset).nextInstr = some (.ldVxDT 0) ∧
      (at' 0x200 0xF007 State.reset).held = false ∧ step (at' 0x200 0xF007 State.reset) = .next t ∧ t.status = .running :=
  ⟨⟨_, by decide, by decide, by decide, rfl, by decide⟩, ⟨_, by decide, by decide, by decide, rfl, by decide⟩⟩
/-- A held machine, one the same but for a key, one at another instruction, one Halted; and a step that is done. -/
theorem witness_StepIsAMoveExactlyWhenEnabled :
    (at' 0x200 0xF50A State.reset).held = true ∧ (at' 0x200 0xF50A (press State.reset 15)).latch[(15 : Key)] = true ∧
    (at' 0x200 0xF507 State.reset).held = false ∧ (at' 0x200 0xF50A (State.reset.raise .stackUnderflow none none)).held = false ∧
    ∃ T r, (Session.create Config.Params.default Fill.zero).move .step = .done T r :=
  ⟨by decide, by decide, by decide, by decide, _, _, rfl⟩
theorem witness_HeldStepWaitsForAKey :
    (at' 0x200 0xF50A State.reset).held = true ∧ (at' 0x200 0xF50A State.reset).nextInstr = some (.ldVxK 5) ∧ 15 < 16 := by decide
theorem witness_CallPushesTheReturnAddress :
    (stacked 15).sp.val < 16 ∧ (stacked 0).sp.val < 16 := by decide
theorem witness_CallOnAFullStackHalts :
    (stacked 16).sp.val = 16 := by decide
theorem witness_ReturnPopsTheTopEntry :
    (stacked 16).sp.val = (15 : Fin 16).val + 1 ∧ (stacked 1).sp.val = (0 : Fin 16).val + 1 := by decide
theorem witness_ReturnOnAnEmptyStackHalts :
    (stacked 0).sp.val = 0 := by decide
theorem witness_ReturnUndoesCall :
    ∃ t, (stacked 15).sp.val < 16 ∧ exec (.call 0x300#12) (stacked 15) = .next t := ⟨_, by decide, rfl⟩
/-- Under per_step and under host_tick. -/
theorem witness_SelfJumpRunsForEver :
    ∀ p ∈ [Config.Params.default, otherParams], (at' 0x200 0x1200 { State.reset with params := p }).status = .running ∧
      (at' 0x200 0x1200 { State.reset with params := p }).nextInstr = some (.jp 0x200#12) ∧
      (at' 0x200 0x1200 { State.reset with params := p }).pc.toNat = (0x200#12).toNat := by decide
/-- No rows with I past memory, and the last fifteen bytes of memory. -/
theorem witness_DrawFlipsExactlyTheSpritePixels :
    (0 = 0 ∨ (State.reset.writeI 0xFFFF#16).i.toNat + 0 ≤ 4096) ∧ (15 = 0 ∨ (State.reset.writeI 0xFF1#16).i.toNat + 15 ≤ 4096) := by decide
/-- The same two boundaries. -/
theorem witness_DrawReportsCollisionAndChangesNothingElse :
    (0 = 0 ∨ (State.reset.writeI 0xFFFF#16).i.toNat + 0 ≤ 4096) ∧ (15 = 0 ∨ (State.reset.writeI 0xFF1#16).i.toNat + 15 ≤ 4096) := by decide
theorem witness_DrawPastMemoryHalts :
    0 < (15 : Fin 16).val ∧ 4096 < (State.reset.writeI 0xFF2#16).i.toNat + (15 : Fin 16).val := by decide
theorem witness_SkipsOnAKey :
    (regs [(0, 0xFF#8)]).params.keyRange = .notPressed ∧ ({ regs [(0, 15#8)] with params := otherParams }.readV 0).toNat < 16 := by decide
theorem witness_LargeKeyCodeHaltsUnderTheFaultPolicy :
    otherParams.keyRange = .fault ∧ 16 ≤ ({ regs [(0, 16#8)] with params := otherParams }.readV 0).toNat ∧
      (16#16).toNat = ({ regs [(0, 16#8)] with params := otherParams }.readV 0).toNat := by decide
theorem witness_WaitForKeyStoresAPressedKey :
    (press State.reset 15).latch[(15 : Key)] = true ∧ ∀ k : Key, State.reset.latch[k] = false := by decide
theorem witness_ReservedFx29RaisesUnknownOpcode :
    decodeWord 0xFF29#16 = .instr (.reservedFx29 15) := by decide
/-- A step, and a load that closed load, the session before it and after it. -/
theorem witness_OnlyLoadWritesMemory :
    ∃ t u T r U q, exec .cls State.reset = .next t ∧ step State.reset = .next u ∧
      (Session.create Config.Params.default Fill.zero).move .step = .done T r ∧
      (Session.create Config.Params.default Fill.zero).move (.load [0x12#8]) = .done U q ∧
      U.loadOpen = false ∧ U.machine.mem = [(0x200, 0x12#8)] := ⟨_, _, _, _, _, _, rfl, rfl, rfl, rfl, rfl, by decide⟩
theorem witness_RegistersOutsideTheWriteSetStay :
    ∃ t, exec (.addReg 1 2) State.reset = .next t ∧ (Instr.addReg 1 2).writesReg 2 = false := ⟨_, rfl, by decide⟩
/-- The codes 15 and 16, the first on a Halted machine. -/
theorem witness_LatchBelongsToTheHost :
    (Session.mk (State.reset.raise .stackUnderflow none none) false).machine.status ≠ .running ∧ 15 < 16 ∧ 16 ≤ 16 ∧
    ∃ t u, step State.reset = .next t ∧ exec .cls State.reset = .next u ∧ (∀ x, Instr.cls ≠ .skp x) ∧
      (∀ x, Instr.cls ≠ .sknp x) ∧ ∀ x, Instr.cls ≠ .ldVxK x :=
  ⟨by decide, by decide, by decide, _, _, rfl, rfl, by simp, by simp, by simp⟩
/-- One instruction per clause that changes the state it names. -/
theorem witness_OtherStateChangesOnlyByItsInstructions :
    (∃ t, exec (.ldI 1#12) State.reset = .next t ∧ t.i ≠ State.reset.i) ∧
    (∃ t, exec (.ldSTVx 1) (regs [(1, 7#8)]) = .next t ∧ t.st ≠ (regs [(1, 7#8)]).st) ∧
    (∃ t, exec (.call 0#12) State.reset = .next t ∧ t.stack ≠ State.reset.stack ∧ t.sp ≠ State.reset.sp) ∧
    ∃ t, exec (.rnd 0 0#8) State.reset = .next t ∧ t.draws ≠ State.reset.draws :=
  ⟨⟨_, rfl, by decide⟩, ⟨_, rfl, by decide⟩, ⟨_, rfl, by decide, by decide⟩, ⟨_, rfl, Nat.succ_ne_zero 0⟩⟩
theorem witness_SoundTimerAndDirtyAreNeverRead :
    ∃ t, exec (.ldSTVx 3) State.reset = .next t := ⟨_, rfl⟩
theorem witness_IndexStaysTwelveBits :
    ∃ t, (State.reset.writeI 0xFFF#16).i.toNat ≤ 0xFFF ∧ step (State.reset.writeI 0xFFF#16) = .next t := ⟨_, by decide, rfl⟩
theorem witness_HaltedIsFinal :
    (Session.mk (State.reset.raise .stackUnderflow none none) false).machine.status = .halted .stackUnderflow ⟨0x200#16, none, none⟩ := by decide
/-- A new session, and images of 1025, 1024 and no bytes. -/
theorem witness_LoadPlacesTheImageAtProgBase :
    (Memory.wf (Session.create Config.Params.default Fill.zero).machine.mem ∧
      (Session.create Config.Params.default Fill.zero).loadOpen = true ∧
      (Session.create Config.Params.default Fill.zero).machine.status = .running) ∧
    1024 < (List.replicate 1025 0xAA#8).length ∧ (List.replicate 1024 0xAA#8).length ≤ 1024 ∧
    ([] : List Byte).length ≤ 1024 := by
  simp only [List.length_replicate]
  decide
/-- Moves that leave load open, and the two ways it closes. -/
theorem witness_LoadIsAdmittedOnceBeforeTheFirstStep :
    (∀ m ∈ [HostMove.setKey 3 true, .readFramebuffer, .tick], m ≠ .step ∧ ∀ b, m ≠ .load b) ∧
    (∃ T r, (Session.create Config.Params.default Fill.zero).move .step = .done T r) ∧
    ∃ T r, (Session.create Config.Params.default Fill.zero).move (.load []) = .done T r :=
  ⟨by simp, ⟨_, _, rfl⟩, ⟨_, _, rfl⟩⟩
theorem witness_ReadFramebufferAndTick :
    ({ State.reset with params := otherParams } : State).params.dtDecay = .hostTick ∧ State.reset.status = .running ∧
      State.reset.params.dtDecay = .perStep := by decide
/-- A new machine meets the invariant, so StepKeepsTheInvariant speaks of a state there is. -/
theorem witness_StepKeepsTheInvariant : ∃ t, State.reset.Inv ∧ step State.reset = .next t := by
  refine ⟨_, ⟨by decide, by decide, ?_, ?_⟩, rfl⟩
  · intro j hj
    exact absurd hj (Nat.not_lt_zero _)
  · intro k info h
    exact absurd h (by simp [State.reset, State.create])
/-- A new session is reachable. -/
theorem witness_EveryReachableSessionSatisfiesTheInvariant :
    (Session.create Config.Params.default Fill.zero).Reachable := ⟨_, _, [], rfl⟩
/-- A new session meets the invariant, and a load is done in it. -/
theorem witness_EveryHostMoveKeepsTheSessionInvariant :
    ∃ T r, (Session.create Config.Params.default Fill.zero).Inv ∧
      (Session.create Config.Params.default Fill.zero).move (.load [0x12#8]) = .done T r := by
  refine ⟨_, _, ⟨⟨by decide, by decide, ?_, ?_⟩, fun _ => rfl, fun _ _ => rfl⟩, rfl⟩
  · intro j hj
    exact absurd hj (Nat.not_lt_zero _)
  · intro k info h
    exact absurd h (by simp [Session.create, State.create])
/-- The two fillings of a new machine. -/
theorem witness_ResetValues :
    Config.Params.default.resetFill = .zero ∧ (⟨.perStep, .notPressed, .arbitrary⟩ : Config.Params).resetFill = .arbitrary := by decide

end Sys2Proof.Tests
end

section

/-! ## read_status as an operation and as a move (10_state.md R46) -/

namespace Sys2Proof.Machine

/-- `read_status()` answers STATUS as it stands (R46). -/
@[simp] theorem State.readStatus_eq_status (s : State) : s.readStatus = s.status := rfl

/-- As a move `read_status()` is done in every session and leaves all of it as it is (R41, R46). -/
theorem Session.move_readStatus (S : Session) :
    S.move .readStatus = .done S (.status S.machine.readStatus) := rfl

/-- Settles O56: the move answers with `read_status()`, which is STATUS, and hands back the same session. -/
theorem readStatusChangesNothing : Obligations.ReadStatusChangesNothing := by
  intro S
  rw [Session.move_readStatus, State.readStatus_eq_status]

end Sys2Proof.Machine
end

section

/-! ## The decode phase: an unknown word carries itself (30_encoding.md R73 to R80, R82) -/

namespace Sys2Proof

theorem decodeGroup0_unknown {w u : Word} (h : decodeGroup0 w = .unknown u) : u = w := by
  unfold decodeGroup0 at h
  split_ifs at h
  exact (Decoded.unknown.inj h).symm

theorem decodeGroup8_unknown {w u : Word} (h : decodeGroup8 w = .unknown u) : u = w := by
  unfold decodeGroup8 at h
  split at h <;> cases h
  rfl

theorem decodeGroupE_unknown {w u : Word} (h : decodeGroupE w = .unknown u) : u = w := by
  unfold decodeGroupE at h
  split at h <;> cases h
  rfl

theorem decodeGroupF_unknown {w u : Word} (h : decodeGroupF w = .unknown u) : u = w := by
  unfold decodeGroupF at h
  split at h <;> cases h
  rfl

/-- The two groups with one instruction, taken for N = 0 only (R76). -/
theorem decodeZeroN_unknown {w u : Word} {i : Instr}
    (h : (if nField w = 0#4 then Decoded.instr i else .unknown w) = .unknown u) : u = w := by
  split_ifs at h
  exact (Decoded.unknown.inj h).symm

/-- The word an "unknown" answer carries is the word that was decoded (R82). Only groups 0, 5, 8, 9, E and F have unknown words (arm n + 1 of the decoder is group n); the other groups are one instruction each. -/
theorem decodeWord_unknown {w u : Word} (h : decodeWord w = .unknown u) : u = w := by
  unfold decodeWord at h
  split at h
  case h_1 => exact decodeGroup0_unknown h
  case h_6 => exact decodeZeroN_unknown h
  case h_9 => exact decodeGroup8_unknown h
  case h_10 => exact decodeZeroN_unknown h
  case h_15 => exact decodeGroupE_unknown h
  case h_16 => exact decodeGroupF_unknown h
  all_goals cases h
  rfl

end Sys2Proof

namespace Sys2Proof.Machine

/-- A Running machine raises UnknownOpcode on a fetched word that decodes to nothing, with that word (40_engine.md R92). -/
theorem step_of_unknown {s : State} {w u : Word} (hs : s.status = .running) (hf : s.fetchWord = some w)
    (hd : decodeWord w = .unknown u) : step s = .next (s.raise .unknownOpcode (some w) none) := by
  have hu : u = w := decodeWord_unknown hd
  subst hu
  simp only [step, hs, hf, hd]

/-- A Running machine executes the instruction its fetched word decodes to (R92). -/
theorem step_of_instr {s : State} {w : Word} {i : Instr} (hs : s.status = .running) (hf : s.fetchWord = some w)
    (hd : decodeWord w = .instr i) : step s = exec i s := by
  simp only [step, hs, hf, hd]

/-- Settles O8: the step takes the decoder's answer as it is, and an unknown word is the fetched one. -/
theorem unknownWordHaltsAndKnownWordExecutes : Obligations.UnknownWordHaltsAndKnownWordExecutes := by
  intro s w hs hf
  exact ⟨fun _ hd => step_of_unknown hs hf hd, fun _ hd => step_of_instr hs hf hd⟩

end Sys2Proof.Machine
end

section

/-! ## Skips on an immediate (41_control_flow.md R103, R104, R107) -/

namespace Sys2Proof.Machine

/-- The decay changes DT alone (40_engine.md R95). -/
theorem State.decay_eq_with_dt (s : State) : s.decay = { s with dt := s.decay.dt } := by
  unfold State.decay
  split <;> rfl

/-- DT after the decay, as a number, under either source of the decay (R95). -/
theorem State.decay_dt_toNat (s : State) : s.decay.dt.toNat = dtAfter s.params s.dt := by
  cases h : s.params.dtDecay with
  | perStep => simp only [s.decay_dt_perStep h, decayed_toNat, dtAfter, h]
  | hostTick => simp only [s.decay_dt_hostTick h, dtAfter, h]

/-- The step of a skip taken exactly when `P` holds: it completes, with PC and the decaying DT alone changed (R95, R107). -/
theorem finish_skipIf (s : State) {taken : Bool} {P : Prop} [Decidable P] (h : taken = true ↔ P) :
    ∃ t, finish s (s.skipIf taken) = .next t ∧
      t = { s with pc := if P then s.pc + 4#16 else s.pc + 2#16, dt := t.dt } ∧
      t.dt.toNat = dtAfter s.params s.dt := by
  refine ⟨(s.writePC (s.skipTarget taken)).decay, rfl, ?_, State.decay_dt_toNat _⟩
  have hpc : s.skipTarget taken = if P then s.pc + 4#16 else s.pc + 2#16 := if_congr h rfl rfl
  rw [← hpc]
  exact State.decay_eq_with_dt _

/-- Settles O17: both are skips, taken on the equality of V[x] and kk as bytes and on its negation. -/
theorem skipsOnAnImmediate : Obligations.SkipsOnAnImmediate := by
  intro x kk s
  have heq : (s.readV x == kk) = true ↔ (s.readV x).toNat = kk.toNat :=
    beq_iff_eq.trans BitVec.toNat_inj.symm
  have hne : (s.readV x != kk) = true ↔ (s.readV x).toNat ≠ kk.toNat :=
    bne_iff_ne.trans BitVec.toNat_inj.symm.not
  exact ⟨⟨Laws.MatchesRow.seImm x kk, finish_skipIf s heq⟩, ⟨Laws.MatchesRow.sneImm x kk, finish_skipIf s hne⟩⟩

end Sys2Proof.Machine
end

section

/-! ## Instructions that write one register and no flag (42_alu.md R120 to R125) -/

namespace Sys2Proof.Machine

/-- Phases 4 and 5 follow a completed execute phase that was not redirected (40_engine.md R94, R95). -/
theorem exec_of_completed {i : Instr} {s u : State} (h : execute i s = .completed u false) :
    exec i s = .next u.advance.decay := by
  rw [exec_eq_finish, h, finish]

/-- The step of an instruction whose execute phase is one write `V[x] <- b`: V[x] has whatever property `b` has, and the other registers and all the rest stay, but for PC, which advances, and DT, which decays (R94, R95). VF is like any register here, written only when it is V[x]. -/
theorem exec_of_writeV {i : Instr} {s : State} {x : Reg} {b : Byte} {P : Byte → Prop}
    (h : execute i s = .completed (s.writeV x b) false) (hb : P b) :
    ∃ t, exec i s = .next t ∧
      t = { s with v := t.v, pc := s.pc + 2#16, dt := t.dt } ∧
      P (t.readV x) ∧ (∀ y, y ≠ x → t.readV y = s.readV y) ∧
      t.dt.toNat = dtAfter s.params s.dt := by
  refine ⟨(s.writeV x b).advance.decay, exec_of_completed h, ?_, ?_, fun y hy => ?_, State.decay_dt_toNat _⟩
  · rw [State.decay_v]
    exact State.decay_eq_with_dt _
  · rwa [State.readV_decay, State.readV_advance, State.readV_writeV_same]
  · rw [State.readV_decay, State.readV_advance, State.readV_writeV_ne s b hy]

/-- Settles O26: each is one write of V[x], of the immediate and of the 8-bit sum, which is the sum mod 256. -/
theorem loadAndAddImmediate : Obligations.LoadAndAddImmediate := by
  intro x kk s
  have hsum : (s.readV x + kk).toNat = ((s.readV x).toNat + kk.toNat) % 256 := BitVec.toNat_add ..
  exact ⟨⟨Laws.MatchesRow.ldImm x kk, exec_of_writeV (P := (· = kk)) rfl rfl⟩,
    ⟨Laws.MatchesRow.addImm x kk,
      exec_of_writeV (P := (·.toNat = ((s.readV x).toNat + kk.toNat) % 256)) rfl hsum⟩⟩

/-- Settles O27: each is one write of V[x], of V[y] or of a word operation on V[x] and V[y] that works bit by bit. -/
theorem copyOrAndXor : Obligations.CopyOrAndXor := by
  intro x y s
  refine ⟨⟨Laws.MatchesRow.ldReg x y, ?copy⟩, ⟨Laws.MatchesRow.orReg x y, ?or⟩,
    ⟨Laws.MatchesRow.andReg x y, ?and⟩, ⟨Laws.MatchesRow.xorReg x y, ?xor⟩⟩
  case copy =>
    exact exec_of_writeV (P := fun b => ∀ j, b.getLsbD j = (s.readV y).getLsbD j)
      rfl fun _ => rfl
  case or =>
    exact exec_of_writeV (P := fun b => ∀ j, b.getLsbD j = ((s.readV x).getLsbD j || (s.readV y).getLsbD j))
      rfl fun _ => BitVec.getLsbD_or
  case and =>
    exact exec_of_writeV (P := fun b => ∀ j, b.getLsbD j = ((s.readV x).getLsbD j && (s.readV y).getLsbD j))
      rfl fun _ => BitVec.getLsbD_and
  case xor =>
    exact exec_of_writeV (P := fun b => ∀ j, b.getLsbD j = ((s.readV x).getLsbD j ^^ (s.readV y).getLsbD j))
      rfl fun _ => BitVec.getLsbD_xor

end Sys2Proof.Machine
end

section

/-! ## The index register and the sprite unit (43_index_display.md R140, R142 to R144) -/

namespace Sys2Proof.Machine

/-! ### Annn -/

theorem addrOperand_toNat (nnn : Addr12) : (addrOperand nnn).toNat = nnn.toNat :=
  BitVec.toNat_setWidth_of_le (by decide)

/-- Settles O32: the execute phase is the one write of I, by the operand widened to 16 bits. -/
theorem loadIndex : Obligations.LoadIndex := by
  intro nnn s
  have hexec : execute (.ldI nnn) s = .completed (s.writeI (addrOperand nnn)) false := rfl
  refine ⟨Laws.MatchesRow.ldI nnn, _, exec_of_completed hexec, ?_, ?_, State.decay_dt_toNat _⟩
  · rw [State.decay_i]
    exact State.decay_eq_with_dt _
  · rw [State.decay_i, State.advance_i, State.writeI_i, addrOperand_toNat]

/-! ### Folds that flip a bit at most once -/

/-- A loop over 0 .. n−1 whose step `k` flips the bit `p` exactly when `hit k`: where no two steps hit, the bit is flipped exactly when some step hits. -/
theorem foldl_range_xor_any {δ : Type} {f : δ → Nat → δ} {p : δ → Bool} {hit : Nat → Bool} {n : Nat}
    (hf : ∀ d k, p (f d k) = (p d ^^ hit k))
    (honce : ∀ j k, j < k → k < n → hit j = true → hit k = true → False) (d : δ) :
    p ((List.range n).foldl f d) = (p d ^^ (List.range n).any hit) := by
  induction n with
  | zero => simp
  | succ n ih =>
    have ih := ih fun j k hjk hk => honce j k hjk (by omega)
    simp only [List.range_succ, List.foldl_append, List.foldl_cons, List.foldl_nil, hf, ih, List.any_append,
      List.any_cons, List.any_nil, Bool.or_false]
    cases hn : hit n with
    | false => simp
    | true =>
      have hbefore : (List.range n).any hit = false :=
        List.any_eq_false.mpr fun j hj hhit => honce j n (List.mem_range.mp hj) (by omega) hhit hn
      simp [hbefore]

/-! ### One sprite bit, one sprite row, the sprite -/

/-- Does bit `col` of the sprite row `b` land on pixel (r, c), and is it set (R143, R144)? -/
def bitLandsOn (b px py : Byte) (row : Nat) (r : Fin 32) (c : Fin 64) (col : Nat) : Bool :=
  b.getLsbD (7 - col) && (r.val == (py.toNat + row) % 32 && c.val == (px.toNat + col) % 64)

/-- Does a set bit of the sprite row `b` land on pixel (r, c)? -/
def byteLandsOn (b px py : Byte) (row : Nat) (r : Fin 32) (c : Fin 64) : Bool :=
  (List.range 8).any (bitLandsOn b px py row r c)

theorem State.spriteCovers_eq_any_byteLandsOn (s : State) (px py : Byte) (n : Nat) (r : Fin 32) (c : Fin 64) :
    s.spriteCovers px py n r c =
      (List.range n).any fun row => byteLandsOn (Memory.read s.mem (s.i.toNat + row)) px py row r c := rfl

theorem bitLandsOn_iff {b px py : Byte} {row col : Nat} {r : Fin 32} {c : Fin 64} :
    bitLandsOn b px py row r c col = true ↔
      spriteBit b col = true ∧ r = spriteRow py row ∧ c = spriteColumn px col := by
  simp [bitLandsOn, spriteBit, spriteRow, spriteColumn, Fin.ext_iff]

/-- Two columns less than 64 apart are two columns also after the wrap (R144). -/
theorem spriteColumn_ne {px : Byte} {j k : Nat} (hjk : j < k) (hk : k < 64) : spriteColumn px j ≠ spriteColumn px k := by
  simp only [spriteColumn, ne_eq, Fin.ext_iff, Fin.val_ofNat]
  omega

/-- Two rows less than 32 apart are two rows also after the wrap (R144). -/
theorem spriteRow_ne {py : Byte} {j k : Nat} (hjk : j < k) (hk : k < 32) : spriteRow py j ≠ spriteRow py k := by
  simp only [spriteRow, ne_eq, Fin.ext_iff, Fin.val_ofNat]
  omega

theorem byteLandsOn_row {b px py : Byte} {row : Nat} {r : Fin 32} {c : Fin 64}
    (h : byteLandsOn b px py row r c = true) : r = spriteRow py row := by
  obtain ⟨col, -, hcol⟩ := List.any_eq_true.mp h
  obtain ⟨-, hr, -⟩ := bitLandsOn_iff.mp hcol
  exact hr

/-- One sprite bit: set, it flips its pixel; clear, it changes nothing (R142, R143). -/
theorem Canvas.pixel_drawBit (d : Canvas) (b px py : Byte) (row col : Nat) (r : Fin 32) (c : Fin 64) :
    (if spriteBit b col then d.flip (spriteRow py row) (spriteColumn px col) else d).fb.pixel r c =
      (d.fb.pixel r c ^^ bitLandsOn b px py row r c col) := by
  by_cases hl : bitLandsOn b px py row r c col = true
  · obtain ⟨hbit, rfl, rfl⟩ := bitLandsOn_iff.mp hl
    simp [hl, hbit, Canvas.flip, Framebuffer.pixel_toggle]
  · rw [Bool.eq_false_of_not_eq_true hl, Bool.xor_false]
    split
    case isFalse => rfl
    case isTrue hbit =>
      have hother : ¬(r = spriteRow py row ∧ c = spriteColumn px col) := fun h => hl (bitLandsOn_iff.mpr ⟨hbit, h⟩)
      simp [Canvas.flip, Framebuffer.pixel_toggle, hother]

/-- One sprite row flips the pixels its set bits land on: its eight columns are different ones (R142 to R144). -/
theorem Canvas.pixel_drawByte (d : Canvas) (b px py : Byte) (row : Nat) (r : Fin 32) (c : Fin 64) :
    (d.drawByte b px (spriteRow py row)).fb.pixel r c = (d.fb.pixel r c ^^ byteLandsOn b px py row r c) := by
  refine foldl_range_xor_any (p := fun d => d.fb.pixel r c) (fun d col => d.pixel_drawBit b px py row col r c) ?_ d
  intro j k hjk hk hj hk'
  obtain ⟨-, -, hcj⟩ := bitLandsOn_iff.mp hj
  obtain ⟨-, -, hck⟩ := bitLandsOn_iff.mp hk'
  exact spriteColumn_ne hjk (by omega) (hcj.symm.trans hck)

/-- A sprite of at most 32 rows flips the pixels it covers: its rows are different ones (R142 to R144). -/
theorem State.pixel_drawSprite (s : State) {n : Nat} (hn : n ≤ 32) (d : Canvas) (px py : Byte) (r : Fin 32) (c : Fin 64) :
    (d.drawSprite s.mem s.i n px py).fb.pixel r c = (d.fb.pixel r c ^^ s.spriteCovers px py n r c) := by
  rw [State.spriteCovers_eq_any_byteLandsOn, Canvas.drawSprite]
  refine foldl_range_xor_any (p := fun d => d.fb.pixel r c)
    (fun d row => d.pixel_drawByte (Memory.read s.mem (s.i.toNat + row)) px py row r c) ?_ d
  intro j k hjk hk hj hk'
  exact spriteRow_ne hjk (by omega) ((byteLandsOn_row hj).symm.trans (byteLandsOn_row hk'))

/-! ### Dxyn -/

theorem State.spriteOutOfRange_eq_false {s : State} {n : Nat} (h : n = 0 ∨ s.i.toNat + n ≤ 4096) :
    s.spriteOutOfRange n = false := by
  simp only [State.spriteOutOfRange, Config.memSize, Bool.and_eq_false_iff, decide_eq_false_iff_not]
  omega

/-- The execute phase of Dxyn for a sprite that passes the bounds check (R142, R146). -/
theorem execute_drw_of_inRange (x y : Reg) {n : Fin 16} {s : State} (h : n.val = 0 ∨ s.i.toNat + n.val ≤ 4096) :
    execute (.drw x y n) s =
      .completed (((s.writeFB (Canvas.drawSprite ⟨s.fb, false⟩ s.mem s.i n (s.readV x) (s.readV y)).fb).writeVF
        (flagByte (Canvas.drawSprite ⟨s.fb, false⟩ s.mem s.i n (s.readV x) (s.readV y)).coll)).markDirty) false := by
  simp only [execute, doDrw, State.spriteOutOfRange_eq_false h, Bool.false_eq_true, if_false]

/-- Settles O34: in range the step completes with the drawn framebuffer, and the drawing flips the covered pixels. -/
theorem drawFlipsExactlyTheSpritePixels : Obligations.DrawFlipsExactlyTheSpritePixels := by
  intro x y n s h
  refine ⟨_, exec_of_completed (execute_drw_of_inRange x y h), fun r c => ?_⟩
  rw [State.decay_fb, State.advance_fb, State.markDirty_fb, State.writeVF_fb, State.writeFB_fb]
  exact s.pixel_drawSprite (by omega) _ _ _ r c

end Sys2Proof.Machine
end

section

/-! ## Reading the delay timer (44_input_timers.md R163) -/

namespace Sys2Proof.Machine

/-- Settles O39: the execute phase is the one write of V[x], by DT before phase 5 decays it. -/
theorem readDelayTimer : Obligations.ReadDelayTimer := by
  intro x s
  have hexec : execute (.ldVxDT x) s = .completed (s.writeV x s.dt) false := rfl
  exact ⟨Laws.MatchesRow.ldVxDT x, exec_of_writeV (P := (· = s.dt)) hexec rfl⟩

end Sys2Proof.Machine
end

section

/-! ## The encoder and the decoder undo each other (30_encoding.md R70 to R86) -/

namespace Sys2Proof

/-! ### The fields of a packed word, and a word packed from its fields (R71) -/

section

variable (g n : BitVec 4) (x y : Reg) (kk : Byte) (nnn : Addr12) (w : Word)

@[simp] theorem groupField_packNNN : groupField (packNNN g nnn) = g := BitVec.extractLsb'_append_eq_left

@[simp] theorem nnnField_packNNN : nnnField (packNNN g nnn) = nnn := BitVec.extractLsb'_append_eq_right

@[simp] theorem groupField_packXKK : groupField (packXKK g x kk) = g :=
  (BitVec.extractLsb'_append_eq_of_le (v := 8) (w := 8) (by decide)).trans BitVec.extractLsb'_append_eq_left

@[simp] theorem xField_packXKK : xField (packXKK g x kk) = x :=
  congrArg BitVec.toFin
    ((BitVec.extractLsb'_append_eq_of_le (v := 8) (w := 8) (by decide)).trans BitVec.extractLsb'_append_eq_right)

@[simp] theorem kkField_packXKK : kkField (packXKK g x kk) = kk := BitVec.extractLsb'_append_eq_right

/-- The three high fields of the view G-X-Y-N stand in it as in a view of 12 bits (R71). -/
theorem extractLsb'_packXYN {start len : Nat} (h : 4 ≤ start) :
    (packXYN g x y n).extractLsb' start len =
      (g ++ BitVec.ofFin (w := 4) x ++ BitVec.ofFin (w := 4) y).extractLsb' (start - 4) len :=
  BitVec.extractLsb'_append_eq_of_le (v := 12) (w := 4) h

@[simp] theorem groupField_packXYN : groupField (packXYN g x y n) = g :=
  (extractLsb'_packXYN g n x y (by decide)).trans
    ((BitVec.extractLsb'_append_eq_of_le (v := 8) (w := 4) (by decide)).trans BitVec.extractLsb'_append_eq_left)

@[simp] theorem xField_packXYN : xField (packXYN g x y n) = x :=
  congrArg BitVec.toFin ((extractLsb'_packXYN g n x y (by decide)).trans
    ((BitVec.extractLsb'_append_eq_of_le (v := 8) (w := 4) (by decide)).trans BitVec.extractLsb'_append_eq_right))

@[simp] theorem yField_packXYN : yField (packXYN g x y n) = y :=
  congrArg BitVec.toFin ((extractLsb'_packXYN g n x y (by decide)).trans BitVec.extractLsb'_append_eq_right)

@[simp] theorem nField_packXYN : nField (packXYN g x y n) = n := BitVec.extractLsb'_append_eq_right

theorem packNNN_fields : packNNN (groupField w) (nnnField w) = w := BitVec.extractLsb'_append_extractLsb'

/-- Bits 15 to 8 of a word are its G and X (R71). -/
theorem groupField_append_xField : groupField w ++ BitVec.ofFin (w := 4) (xField w) = w.extractLsb' 8 8 :=
  BitVec.extractLsb'_append_extractLsb'_eq_extractLsb' (start₁ := 8) (start₂ := 12) (len₁ := 4) (len₂ := 4) (by decide)

theorem packXKK_fields : packXKK (groupField w) (xField w) (kkField w) = w := by
  rw [packXKK, groupField_append_xField]
  exact BitVec.extractLsb'_append_extractLsb' (w := 8) (len := 8)

theorem packXYN_fields : packXYN (groupField w) (xField w) (yField w) (nField w) = w := by
  have hGXY : w.extractLsb' 8 8 ++ BitVec.ofFin (w := 4) (yField w) = w.extractLsb' 4 12 :=
    BitVec.extractLsb'_append_extractLsb'_eq_extractLsb' (start₁ := 4) (start₂ := 8) (len₁ := 4) (len₂ := 8) (by decide)
  rw [packXYN, groupField_append_xField, hGXY]
  exact BitVec.extractLsb'_append_extractLsb' (w := 12) (len := 4)

end

/-! ### Decoding an encoding -/

/-- The word of an instruction decodes to it, operands and all. -/
theorem decodeWord_encode (i : Instr) : decodeWord (encode i) = .instr i := by
  cases i with
  | cls | ret => rfl
  | _ => simp [encode, decodeWord, decodeGroup8, decodeGroupE, decodeGroupF]

/-- The two bytes of an instruction decode to it, and the bytes after them are left. -/
theorem decodeBytes_encodeBytes_append (i : Instr) (rest : List Byte) :
    decodeBytes (encodeBytes i ++ rest) = .ok (i, rest) := by
  simp only [encodeBytes, List.cons_append, List.nil_append, decodeBytes, Machine.wordOfBytes_split, decodeWord_encode]

/-- Settles O2: the decoder reads back each field that the encoder packs, in the word and in its two bytes. -/
theorem decodeOfEncodeGivesTheInstruction : Obligations.DecodeOfEncodeGivesTheInstruction :=
  fun i _ => ⟨decodeWord_encode i, decodeBytes_encodeBytes_append i⟩

/-! ### Encoding what a word decodes to -/

section

variable {g n : BitVec 4} {kk : Byte} {w : Word}

/-- A word is the view G-NNN of its group and its own NNN (R71). -/
theorem packNNN_of_group (hg : (groupField w).toNat = g.toNat) : packNNN g (nnnField w) = w := by
  rw [← BitVec.eq_of_toNat_eq hg, packNNN_fields]

theorem packXKK_of_group (hg : (groupField w).toNat = g.toNat) : packXKK g (xField w) (kkField w) = w := by
  rw [← BitVec.eq_of_toNat_eq hg, packXKK_fields]

theorem packXKK_of_group_kk (hg : (groupField w).toNat = g.toNat) (hk : (kkField w).toNat = kk.toNat) :
    packXKK g (xField w) kk = w := by
  rw [← BitVec.eq_of_toNat_eq hk, packXKK_of_group hg]

theorem packXYN_of_group (hg : (groupField w).toNat = g.toNat) :
    packXYN g (xField w) (yField w) (nField w) = w := by
  rw [← BitVec.eq_of_toNat_eq hg, packXYN_fields]

theorem packXYN_of_group_n (hg : (groupField w).toNat = g.toNat) (hn : (nField w).toNat = n.toNat) :
    packXYN g (xField w) (yField w) n = w := by
  rw [← BitVec.eq_of_toNat_eq hn, packXYN_of_group hg]

end

section

variable {w : Word} {i : Instr}

theorem encode_of_decodeGroup0 (h : decodeGroup0 w = .instr i) : encode i = w := by
  unfold decodeGroup0 at h
  split_ifs at h with hcls hret
  · cases h; exact hcls.symm
  · cases h; exact hret.symm

theorem encode_of_decodeGroup8 (hg : (groupField w).toNat = 8) (h : decodeGroup8 w = .instr i) : encode i = w := by
  unfold decodeGroup8 at h
  split at h <;> cases h
  all_goals exact packXYN_of_group_n hg ‹_›

theorem encode_of_decodeGroupE (hg : (groupField w).toNat = 14) (h : decodeGroupE w = .instr i) : encode i = w := by
  unfold decodeGroupE at h
  split at h <;> cases h
  all_goals exact packXKK_of_group_kk hg ‹_›

theorem encode_of_decodeGroupF (hg : (groupField w).toNat = 15) (h : decodeGroupF w = .instr i) : encode i = w := by
  unfold decodeGroupF at h
  split at h <;> cases h
  all_goals exact packXKK_of_group_kk hg ‹_›

/-- A word that decodes to an instruction is its encoding. Arm n + 1 of the decoder is group n. -/
theorem encode_of_decodeWord (h : decodeWord w = .instr i) : encode i = w := by
  unfold decodeWord at h
  split at h
  case h_1 => exact encode_of_decodeGroup0 h
  case h_9 _ hg => exact encode_of_decodeGroup8 hg h
  case h_15 _ hg => exact encode_of_decodeGroupE hg h
  case h_16 _ hg => exact encode_of_decodeGroupF hg h
  case h_6 _ hg | h_10 _ hg =>
    split_ifs at h with hn
    cases h
    exact packXYN_of_group_n hg (congrArg BitVec.toNat hn)
  all_goals cases h
  case h_2 _ hg | h_3 _ hg | h_11 _ hg | h_12 _ hg => exact packNNN_of_group hg
  case h_4 _ hg | h_5 _ hg | h_7 _ hg | h_8 _ hg | h_13 _ hg => exact packXKK_of_group hg
  case h_14 _ hg => exact packXYN_of_group hg

end

/-- Settles O3: in every arm of the decoder the group and the selector are the fixed bits of the instruction's row. -/
theorem encodeOfDecodedGivesTheWord : Obligations.EncodeOfDecodedGivesTheWord :=
  fun _ _ h => encode_of_decodeWord h

/-! ### The opcode map -/

theorem encode_matchesRow : ∀ i : Instr, Laws.MatchesRow.Statement i
  | .cls => Laws.MatchesRow.cls
  | .ret => Laws.MatchesRow.ret
  | .jp nnn => Laws.MatchesRow.jp nnn
  | .call nnn => Laws.MatchesRow.call nnn
  | .seImm x kk => Laws.MatchesRow.seImm x kk
  | .sneImm x kk => Laws.MatchesRow.sneImm x kk
  | .seReg x y => Laws.MatchesRow.seReg x y
  | .ldImm x kk => Laws.MatchesRow.ldImm x kk
  | .addImm x kk => Laws.MatchesRow.addImm x kk
  | .ldReg x y => Laws.MatchesRow.ldReg x y
  | .orReg x y => Laws.MatchesRow.orReg x y
  | .andReg x y => Laws.MatchesRow.andReg x y
  | .xorReg x y => Laws.MatchesRow.xorReg x y
  | .addReg x y => Laws.MatchesRow.addReg x y
  | .subReg x y => Laws.MatchesRow.subReg x y
  | .shr x y => Laws.MatchesRow.shr x y
  | .subnReg x y => Laws.MatchesRow.subnReg x y
  | .shl x y => Laws.MatchesRow.shl x y
  | .sneReg x y => Laws.MatchesRow.sneReg x y
  | .ldI nnn => Laws.MatchesRow.ldI nnn
  | .jpV0 nnn => Laws.MatchesRow.jpV0 nnn
  | .rnd x kk => Laws.MatchesRow.rnd x kk
  | .drw x y n => Laws.MatchesRow.drw x y n
  | .skp x => Laws.MatchesRow.skp x
  | .sknp x => Laws.MatchesRow.sknp x
  | .ldVxDT x => Laws.MatchesRow.ldVxDT x
  | .ldVxK x => Laws.MatchesRow.ldVxK x
  | .ldDTVx x => Laws.MatchesRow.ldDTVx x
  | .ldSTVx x => Laws.MatchesRow.ldSTVx x
  | .reservedFx29 x => Laws.MatchesRow.reservedFx29 x

theorem opcodeRow_mem_opcodeRows (i : Instr) : opcodeRow i ∈ opcodeRows := by
  cases i <;> simp [opcodeRows, rowExamples1, rowExamples2, rowExamples3, opcodeRow]

theorem OpcodeRow.matchesWord_iff {row : OpcodeRow} {w : Word} :
    row.matchesWord w = true ↔ w &&& row.mask = row.bits := beq_iff_eq

section

variable {g n : BitVec 4} {kk : Byte} {w : Word}

/-- A word whose masked bits are a row's fixed bits is packed from them and from its own operands (R71, R86). -/
theorem packNNN_of_mask (h : w &&& 0xF000#16 = packNNN g 0) : packNNN g (nnnField w) = w := by
  have hmask := packNNN_mask (groupField w) (nnnField w)
  rw [packNNN_fields, h] at hmask
  have hg : g = groupField w := by simpa using congrArg groupField hmask
  rw [hg, packNNN_fields]

theorem packXKK_of_mask (h : w &&& 0xF000#16 = packXKK g 0 0) : packXKK g (xField w) (kkField w) = w := by
  have hmask := packXKK_mask (groupField w) (xField w) (kkField w)
  rw [packXKK_fields, h] at hmask
  have hg : g = groupField w := by simpa using congrArg groupField hmask
  rw [hg, packXKK_fields]

theorem packXKK_of_mask_kk (h : w &&& 0xF0FF#16 = packXKK g 0 kk) : packXKK g (xField w) kk = w := by
  have hmask := packXKK_mask_kk (groupField w) (xField w) (kkField w)
  rw [packXKK_fields, h] at hmask
  have hg : g = groupField w := by simpa using congrArg groupField hmask
  have hk : kk = kkField w := by simpa using congrArg kkField hmask
  rw [hg, hk, packXKK_fields]

theorem packXYN_of_mask (h : w &&& 0xF000#16 = packXYN g 0 0 0) : packXYN g (xField w) (yField w) (nField w) = w := by
  have hmask := packXYN_mask (groupField w) (xField w) (yField w) (nField w)
  rw [packXYN_fields, h] at hmask
  have hg : g = groupField w := by simpa using congrArg groupField hmask
  rw [hg, packXYN_fields]

theorem packXYN_of_mask_n (h : w &&& 0xF00F#16 = packXYN g 0 0 n) : packXYN g (xField w) (yField w) n = w := by
  have hmask := packXYN_mask_n (groupField w) (xField w) (yField w) (nField w)
  rw [packXYN_fields, h] at hmask
  have hg : g = groupField w := by simpa using congrArg groupField hmask
  have hn : n = nField w := by simpa using congrArg nField hmask
  rw [hg, hn, packXYN_fields]

end

/-- A word that matches the row of an instruction is the encoding of an instruction of that row (R86): the mask keeps the row's fixed bits, and the other fields are the operands. -/
theorem exists_encode_of_matchesRow {i : Instr} {w : Word} (h : w &&& (opcodeRow i).mask = (opcodeRow i).bits) :
    ∃ j, encode j = w ∧ opcodeRow j = opcodeRow i := by
  cases i with
  | cls => exact ⟨.cls, (BitVec.and_allOnes.symm.trans h).symm, rfl⟩
  | ret => exact ⟨.ret, (BitVec.and_allOnes.symm.trans h).symm, rfl⟩
  | jp => exact ⟨.jp (nnnField w), packNNN_of_mask h, rfl⟩
  | call => exact ⟨.call (nnnField w), packNNN_of_mask h, rfl⟩
  | seImm => exact ⟨.seImm (xField w) (kkField w), packXKK_of_mask h, rfl⟩
  | sneImm => exact ⟨.sneImm (xField w) (kkField w), packXKK_of_mask h, rfl⟩
  | seReg => exact ⟨.seReg (xField w) (yField w), packXYN_of_mask_n h, rfl⟩
  | ldImm => exact ⟨.ldImm (xField w) (kkField w), packXKK_of_mask h, rfl⟩
  | addImm => exact ⟨.addImm (xField w) (kkField w), packXKK_of_mask h, rfl⟩
  | ldReg => exact ⟨.ldReg (xField w) (yField w), packXYN_of_mask_n h, rfl⟩
  | orReg => exact ⟨.orReg (xField w) (yField w), packXYN_of_mask_n h, rfl⟩
  | andReg => exact ⟨.andReg (xField w) (yField w), packXYN_of_mask_n h, rfl⟩
  | xorReg => exact ⟨.xorReg (xField w) (yField w), packXYN_of_mask_n h, rfl⟩
  | addReg => exact ⟨.addReg (xField w) (yField w), packXYN_of_mask_n h, rfl⟩
  | subReg => exact ⟨.subReg (xField w) (yField w), packXYN_of_mask_n h, rfl⟩
  | shr => exact ⟨.shr (xField w) (yField w), packXYN_of_mask_n h, rfl⟩
  | subnReg => exact ⟨.subnReg (xField w) (yField w), packXYN_of_mask_n h, rfl⟩
  | shl => exact ⟨.shl (xField w) (yField w), packXYN_of_mask_n h, rfl⟩
  | sneReg => exact ⟨.sneReg (xField w) (yField w), packXYN_of_mask_n h, rfl⟩
  | ldI => exact ⟨.ldI (nnnField w), packNNN_of_mask h, rfl⟩
  | jpV0 => exact ⟨.jpV0 (nnnField w), packNNN_of_mask h, rfl⟩
  | rnd => exact ⟨.rnd (xField w) (kkField w), packXKK_of_mask h, rfl⟩
  | drw => exact ⟨.drw (xField w) (yField w) ((nField w).toFin), packXYN_of_mask h, rfl⟩
  | skp => exact ⟨.skp (xField w), packXKK_of_mask_kk h, rfl⟩
  | sknp => exact ⟨.sknp (xField w), packXKK_of_mask_kk h, rfl⟩
  | ldVxDT => exact ⟨.ldVxDT (xField w), packXKK_of_mask_kk h, rfl⟩
  | ldVxK => exact ⟨.ldVxK (xField w), packXKK_of_mask_kk h, rfl⟩
  | ldDTVx => exact ⟨.ldDTVx (xField w), packXKK_of_mask_kk h, rfl⟩
  | ldSTVx => exact ⟨.ldSTVx (xField w), packXKK_of_mask_kk h, rfl⟩
  | reservedFx29 => exact ⟨.reservedFx29 (xField w), packXKK_of_mask_kk h, rfl⟩

theorem mem_opcodeRows {row : OpcodeRow} (h : row ∈ opcodeRows) : ∃ i, opcodeRow i = row := by
  obtain ⟨i, -, hi⟩ := List.mem_map.mp h
  exact ⟨i, hi⟩

/-- A word that matches a row of the map decodes to an instruction of that row. -/
theorem exists_decodeWord_of_matchesWord {row : OpcodeRow} {w : Word} (hrow : row ∈ opcodeRows)
    (h : row.matchesWord w = true) : ∃ j, decodeWord w = .instr j ∧ opcodeRow j = row := by
  obtain ⟨i, rfl⟩ := mem_opcodeRows hrow
  obtain ⟨j, rfl, hj⟩ := exists_encode_of_matchesRow (OpcodeRow.matchesWord_iff.mp h)
  exact ⟨j, decodeWord_encode j, hj⟩

/-- Settles O4: a decoded word is an encoding, which matches its row; a word that matches a row decodes to an instruction, so an unknown word matches none. -/
theorem decodeFollowsTheOpcodeMap : Obligations.DecodeFollowsTheOpcodeMap := by
  refine fun w => ⟨fun i hi => ⟨opcodeRow_mem_opcodeRows i, ?_⟩,
    fun u hu => ⟨decodeWord_unknown hu, fun row hrow => ?_⟩⟩
  · rw [OpcodeRow.matchesWord_iff, ← encode_of_decodeWord hi]
    exact encode_matchesRow i
  · refine Bool.eq_false_iff.mpr fun hmatch => ?_
    obtain ⟨j, hj, -⟩ := exists_decodeWord_of_matchesWord hrow hmatch
    cases hu.symm.trans hj

/-- Settles O5: both rows are the row of the one instruction that the word decodes to. -/
theorem noWordMatchesTwoRows : Obligations.NoWordMatchesTwoRows := by
  intro w r hr r' hr' h h'
  obtain ⟨j, hj, rfl⟩ := exists_decodeWord_of_matchesWord hr h
  obtain ⟨j', hj', rfl⟩ := exists_decodeWord_of_matchesWord hr' h'
  rw [Decoded.instr.inj (hj.symm.trans hj')]

/-- Settles O1: twelve closed words, on which the decoder is run. -/
theorem specWordsDecodeToTheirInstructions : Obligations.SpecWordsDecodeToTheirInstructions := by
  unfold Obligations.SpecWordsDecodeToTheirInstructions
  decide

end Sys2Proof
end

section

/-! ## What an execute phase can do, instruction by instruction (40_engine.md R93 to R97) -/

namespace Sys2Proof.Machine

/-! ### The two ends of each instruction that can raise or be held -/

section

variable {s : State}

theorem execute_ret_empty (h : s.sp.val = 0) : execute .ret s = .raised .stackUnderflow none none := by
  simp only [execute, doRet, State.pop_empty h]

theorem execute_ret_pops (h : s.sp.val ≠ 0) :
    execute .ret s =
      .completed { s with sp := ⟨s.sp.val - 1, by omega⟩, pc := s.stack[s.sp.val - 1]'(by omega) } true := by
  simp only [execute, doRet, State.pop_some h]
  rfl

theorem execute_ret_eq_dite (s : State) :
    execute .ret s = if _h : s.sp.val = 0 then .raised .stackUnderflow none none
      else .completed { s with sp := ⟨s.sp.val - 1, by omega⟩, pc := s.stack[s.sp.val - 1]'(by omega) } true := by
  split
  · exact execute_ret_empty ‹_›
  · exact execute_ret_pops ‹_›

theorem execute_call_full (nnn : Addr12) (h : s.sp.val = 16) :
    execute (.call nnn) s = .raised .stackOverflow none none := by
  simp only [execute, doCall, State.push_full h]

theorem execute_call_pushes (nnn : Addr12) (h : s.sp.val < 16) :
    execute (.call nnn) s =
      .completed { s with
        stack := s.stack.set s.sp.val (s.pc + 2#16) h, sp := ⟨s.sp.val + 1, by omega⟩, pc := addrOperand nnn } true := by
  simp only [execute, doCall, State.push_some h]
  rfl

theorem execute_call_eq_dite (nnn : Addr12) (s : State) :
    execute (.call nnn) s = if h : s.sp.val < 16 then
      .completed { s with
        stack := s.stack.set s.sp.val (s.pc + 2#16) h, sp := ⟨s.sp.val + 1, by omega⟩, pc := addrOperand nnn } true
      else .raised .stackOverflow none none := by
  split
  · exact execute_call_pushes nnn ‹_›
  · exact execute_call_full nnn (by omega)

theorem execute_drw_of_outOfRange (x y : Reg) {n : Fin 16} (h : 0 < n.val ∧ 4096 < s.i.toNat + n.val) :
    execute (.drw x y n) s = .raised .outOfBoundsFetch none (some s.i) := by
  have hout : s.spriteOutOfRange n = true := by
    simpa [State.spriteOutOfRange, Config.memSize] using h
  simp only [execute, doDrw, hout, if_true]

theorem execute_drw_eq_ite (x y : Reg) (n : Fin 16) (s : State) :
    execute (.drw x y n) s = if 0 < n.val ∧ 4096 < s.i.toNat + n.val then .raised .outOfBoundsFetch none (some s.i)
      else .completed (((s.writeFB (Canvas.drawSprite ⟨s.fb, false⟩ s.mem s.i n (s.readV x) (s.readV y)).fb).writeVF
        (flagByte (Canvas.drawSprite ⟨s.fb, false⟩ s.mem s.i n (s.readV x) (s.readV y)).coll)).markDirty) false := by
  split
  · exact execute_drw_of_outOfRange x y ‹_›
  · exact execute_drw_of_inRange x y (by omega)

theorem State.keyIn_of_allowed {k : Byte} (h : s.params.keyRange = .notPressed ∨ k.toNat < 16) :
    s.keyIn k = some (s.keyPressed k) := by
  by_cases hk : k.toNat < 16
  · rw [s.keyIn_small hk, State.keyPressed, dif_pos hk]
  · rw [s.keyIn_large (by omega), if_pos (h.resolve_right hk), State.keyPressed, dif_neg hk]

theorem State.keyIn_of_fault {k : Byte} (h : s.params.keyRange = .fault ∧ 16 ≤ k.toNat) : s.keyIn k = none := by
  obtain ⟨hp, hk⟩ := h
  rw [s.keyIn_large hk, hp, if_neg (by decide)]

/-- Either a key code has a key lookup, or the policy makes it an error (44_input_timers.md R162). -/
theorem State.keyIn_allowed_or_fault (s : State) (k : Byte) :
    (s.params.keyRange = .notPressed ∨ k.toNat < 16) ∨ (s.params.keyRange = .fault ∧ 16 ≤ k.toNat) := by
  cases s.params.keyRange <;> simp [Nat.lt_or_ge]

theorem not_fault_of_allowed {k : Byte} (h : s.params.keyRange = .notPressed ∨ k.toNat < 16) :
    ¬ (s.params.keyRange = .fault ∧ 16 ≤ k.toNat) := by
  rintro ⟨hp, hk⟩
  rcases h with hnp | hlt
  · cases hp.symm.trans hnp
  · omega

theorem execute_skp_of_allowed {x : Reg} (h : s.params.keyRange = .notPressed ∨ (s.readV x).toNat < 16) :
    execute (.skp x) s = s.skipIf (s.keyPressed (s.readV x)) := by
  simp only [execute, doSkp, State.keyIn_of_allowed h]

theorem execute_sknp_of_allowed {x : Reg} (h : s.params.keyRange = .notPressed ∨ (s.readV x).toNat < 16) :
    execute (.sknp x) s = s.skipIf (!s.keyPressed (s.readV x)) := by
  simp only [execute, doSknp, State.keyIn_of_allowed h]

theorem execute_skp_of_fault {x : Reg} (h : s.params.keyRange = .fault ∧ 16 ≤ (s.readV x).toNat) :
    execute (.skp x) s = .raised .outOfBoundsFetch none (some ((s.readV x).setWidth 16)) := by
  simp only [execute, doSkp, State.keyIn_of_fault h]

theorem execute_sknp_of_fault {x : Reg} (h : s.params.keyRange = .fault ∧ 16 ≤ (s.readV x).toNat) :
    execute (.sknp x) s = .raised .outOfBoundsFetch none (some ((s.readV x).setWidth 16)) := by
  simp only [execute, doSknp, State.keyIn_of_fault h]

theorem execute_skp_eq_ite (x : Reg) (s : State) :
    execute (.skp x) s = if s.params.keyRange = .fault ∧ 16 ≤ (s.readV x).toNat then
      .raised .outOfBoundsFetch none (some ((s.readV x).setWidth 16)) else s.skipIf (s.keyPressed (s.readV x)) := by
  split
  · exact execute_skp_of_fault ‹_›
  · exact execute_skp_of_allowed ((s.keyIn_allowed_or_fault _).resolve_right ‹_›)

theorem execute_sknp_eq_ite (x : Reg) (s : State) :
    execute (.sknp x) s = if s.params.keyRange = .fault ∧ 16 ≤ (s.readV x).toNat then
      .raised .outOfBoundsFetch none (some ((s.readV x).setWidth 16)) else s.skipIf (!s.keyPressed (s.readV x)) := by
  split
  · exact execute_sknp_of_fault ‹_›
  · exact execute_sknp_of_allowed ((s.keyIn_allowed_or_fault _).resolve_right ‹_›)

theorem execute_ldVxK_of_key (x : Reg) {k : Key} (h : s.drawKey = some k) :
    execute (.ldVxK x) s = .completed (s.writeV x (BitVec.ofNat 8 k.val)).countDraw false := by
  simp only [execute, doLdVxK, h]

theorem execute_ldVxK_held (x : Reg) (h : s.drawKey = none) : execute (.ldVxK x) s = .held := by
  simp only [execute, doLdVxK, h]

end

/-! ### What an execute phase writes, and how it ends -/

/-- What an instruction's execute phase may have written when it completed (10_state.md R39): the fields named, and no other. `register` and `flagged` write one or two registers of the instruction's write set, `jump` writes PC alone. -/
inductive Writes (s : State) : Instr → State → Prop
  | index (nnn : Addr12) : Writes s (.ldI nnn) (s.writeI (addrOperand nnn))
  | delayTimer (x : Reg) : Writes s (.ldDTVx x) (s.writeDT (s.readV x))
  | soundTimer (x : Reg) : Writes s (.ldSTVx x) (s.writeST (s.readV x))
  | clear : Writes s .cls (s.writeFB Framebuffer.clear).markDirty
  | draw (x y : Reg) (n : Fin 16) (fb : Framebuffer) (b : Byte) :
      Writes s (.drw x y n) ((s.writeFB fb).writeVF b).markDirty
  | randomByte (x : Reg) (kk b : Byte) : Writes s (.rnd x kk) (s.writeV x b).countDraw
  | key (x : Reg) (b : Byte) : Writes s (.ldVxK x) (s.writeV x b).countDraw
  | call (nnn : Addr12) (h : s.sp.val < 16) :
      Writes s (.call nnn) { s with
        stack := s.stack.set s.sp.val (s.pc + 2#16) h, sp := ⟨s.sp.val + 1, by omega⟩, pc := addrOperand nnn }
  | ret (h : s.sp.val ≠ 0) :
      Writes s .ret { s with sp := ⟨s.sp.val - 1, by omega⟩, pc := s.stack[s.sp.val - 1]'(by omega) }
  | register (i : Instr) (x : Reg) (b : Byte) (hx : i.writesReg x = true) : Writes s i (s.writeV x b)
  | flagged (i : Instr) (x y : Reg) (b c : Byte) (hx : i.writesReg x = true) (hy : i.writesReg y = true) :
      Writes s i ((s.writeV x b).writeV y c)
  | jump (i : Instr) (pc : Word) (hi : ∀ x, i ≠ .ldDTVx x) : Writes s i (s.writePC pc)

/-- How an execute phase may end (40_engine.md R93): completed, with the writes of its instruction and outside the states where that raises; raised, in such a state and with the info of the error's kind (60_exceptions.md R200, R201); held, at an Fx0A with no key to draw (44_input_timers.md R164). -/
inductive Ends (s : State) (i : Instr) : Execution → Prop
  | completed (u : State) (r : Bool) (hn : ¬ i.raisesIn s) (hw : Writes s i u) : Ends s i (.completed u r)
  | raised (k : ErrorKind) (w a : Option Word) (hr : i.raisesIn s) (hk : k.records ⟨s.pc, w, a⟩ = true) :
      Ends s i (.raised k w a)
  | held (x : Reg) (hi : i = .ldVxK x) (hd : s.drawKey = none) : Ends s i .held

/-- The end of every instruction's execute phase. The six instructions that can raise or be held have two ends each. -/
theorem execute_ends (i : Instr) (s : State) : Ends s i (execute i s) := by
  cases i with
  | ldI nnn => exact .completed _ _ not_false (.index nnn)
  | ldDTVx x => exact .completed _ _ not_false (.delayTimer x)
  | ldSTVx x => exact .completed _ _ not_false (.soundTimer x)
  | cls => exact .completed _ _ not_false .clear
  | rnd x kk => exact .completed _ _ not_false (.randomByte x kk _)
  | reservedFx29 x => exact .raised _ _ _ trivial rfl
  | drw x y n =>
    by_cases hr : (Instr.drw x y n).raisesIn s
    · rw [execute_drw_of_outOfRange x y hr]
      exact .raised _ _ _ hr rfl
    · rw [execute_drw_of_inRange x y (by simp only [Instr.raisesIn] at hr; omega)]
      exact .completed _ _ hr (.draw x y n _ _)
  | ldVxK x =>
    cases hd : s.drawKey with
    | none =>
      rw [execute_ldVxK_held x hd]
      exact .held x rfl hd
    | some k =>
      rw [execute_ldVxK_of_key x hd]
      exact .completed _ _ not_false (.key x _)
  | call nnn =>
    by_cases hr : s.sp.val = 16
    · rw [execute_call_full nnn hr]
      exact .raised _ _ _ hr rfl
    · have hsp : s.sp.val < 16 := by omega
      rw [execute_call_pushes nnn hsp]
      exact .completed _ _ hr (.call nnn hsp)
  | ret =>
    by_cases hr : s.sp.val = 0
    · rw [execute_ret_empty hr]
      exact .raised _ _ _ hr rfl
    · rw [execute_ret_pops hr]
      exact .completed _ _ hr (.ret hr)
  | skp x =>
    rcases s.keyIn_allowed_or_fault (s.readV x) with hk | hr
    · rw [execute_skp_of_allowed hk]
      exact .completed _ _ (not_fault_of_allowed hk) (.jump _ _ (by simp))
    · rw [execute_skp_of_fault hr]
      exact .raised _ _ _ hr rfl
  | sknp x =>
    rcases s.keyIn_allowed_or_fault (s.readV x) with hk | hr
    · rw [execute_sknp_of_allowed hk]
      exact .completed _ _ (not_fault_of_allowed hk) (.jump _ _ (by simp))
    · rw [execute_sknp_of_fault hr]
      exact .raised _ _ _ hr rfl
  | ldImm x _ | addImm x _ | ldReg x _ | orReg x _ | andReg x _ | xorReg x _ | ldVxDT x =>
    exact .completed _ _ not_false (.register _ x _ (beq_self_eq_true x))
  | addReg x _ | subReg x _ | shr x _ | subnReg x _ | shl x _ =>
    exact .completed _ _ not_false (.flagged _ _ _ _ _ (by simp [Instr.writesReg]) (by simp [Instr.writesReg]))
  | jp _ | jpV0 _ | seImm _ _ | sneImm _ _ | seReg _ _ | sneReg _ _ =>
    exact .completed _ _ not_false (.jump _ _ (by simp))

theorem ends_of_execute {i : Instr} {s : State} {e : Execution} (h : execute i s = e) : Ends s i e :=
  h ▸ execute_ends i s

/-! ### What every completed execute phase leaves alone -/

section

variable {i : Instr} {s u : State} (h : Writes s i u)

include h

theorem Writes.mem_eq : u.mem = s.mem := by cases h <;> rfl

theorem Writes.latch_eq : u.latch = s.latch := by cases h <;> rfl

theorem Writes.status_eq : u.status = s.status := by cases h <;> rfl

theorem Writes.params_eq : u.params = s.params := by cases h <;> rfl

/-- A general register outside the write set stays (10_state.md R22, R39). -/
theorem Writes.readV_eq {z : Reg} (hz : i.writesReg z = false) : u.readV z = s.readV z := by
  have outside : ∀ x, i.writesReg x = true → z ≠ x := by
    rintro x hx rfl
    cases hx.symm.trans hz
  cases h with
  | register _ x b hx => exact s.readV_writeV_ne b (outside x hx)
  | flagged _ x y b c hx hy =>
    rw [State.readV_writeV_ne _ c (outside y hy), State.readV_writeV_ne _ b (outside x hx)]
  | draw x y n fb b => exact State.readV_writeV_ne (s.writeFB fb) b (outside VF rfl)
  | randomByte x kk b => exact s.readV_writeV_ne b (outside x (beq_self_eq_true x))
  | key x b => exact s.readV_writeV_ne b (outside x (beq_self_eq_true x))
  | _ => rfl

end

end Sys2Proof.Machine
end

section

/-! ## The step and its next state (40_engine.md R90 to R98) -/

namespace Sys2Proof.Machine

/-! ### The ends of `exec`: one equation per end of the execute phase (R93 to R96) -/

section

variable {i : Instr} {s u : State}

theorem exec_of_redirected (h : execute i s = .completed u true) : exec i s = .next u.decay := by
  rw [exec_eq_finish, h, finish]

theorem exec_of_raised {k : ErrorKind} {w a : Option Word} (h : execute i s = .raised k w a) :
    exec i s = .next (s.raise k w a) := by
  rw [exec_eq_finish, h, finish]

theorem exec_of_held (h : execute i s = .held) : exec i s = .next s := by
  rw [exec_eq_finish, h, finish]

end

/-- The state after phases 4 and 5 (R94, R95). -/
def State.completeStep (u : State) (redirected : Bool) : State := (if redirected then u else u.advance).decay

theorem exec_of_completed_phase {i : Instr} {s u : State} {r : Bool} (h : execute i s = .completed u r) :
    exec i s = .next (u.completeStep r) := by
  cases r with
  | false => exact exec_of_completed h
  | true => exact exec_of_redirected h

/-- Phases 4 and 5 change PC and DT alone. -/
theorem State.completeStep_eq (u : State) (r : Bool) :
    u.completeStep r = { u with pc := (u.completeStep r).pc, dt := (u.completeStep r).dt } := by
  unfold State.completeStep
  cases r <;> simp only [Bool.false_eq_true, if_true, if_false, State.decay_pc] <;> exact State.decay_eq_with_dt _

/-- What `exec` can do: complete, with the writes of its instruction; raise; or be held (R93). -/
theorem exec_next_cases {i : Instr} {s t : State} (h : exec i s = .next t) :
    (∃ u r, execute i s = .completed u r ∧ ¬ i.raisesIn s ∧ Writes s i u ∧ t = u.completeStep r) ∨
    (∃ k w a, i.raisesIn s ∧ k.records ⟨s.pc, w, a⟩ = true ∧ t = s.raise k w a) ∨
    ((∃ x, i = .ldVxK x) ∧ s.drawKey = none ∧ t = s) := by
  cases he : execute i s with
  | completed u r =>
    rw [exec_of_completed_phase he] at h
    cases h
    cases ends_of_execute he with
    | completed _ _ hn hw => exact .inl ⟨u, r, rfl, hn, hw, rfl⟩
  | raised k w a =>
    rw [exec_of_raised he] at h
    cases h
    cases ends_of_execute he with
    | raised _ _ _ hr hk => exact .inr (.inl ⟨k, w, a, hr, hk, rfl⟩)
  | held =>
    rw [exec_of_held he] at h
    cases h
    cases ends_of_execute he with
    | held x hi hd => exact .inr (.inr ⟨⟨x, hi⟩, hd, rfl⟩)

theorem exec_exists_next (i : Instr) (s : State) : ∃ t, exec i s = .next t := by
  rcases exec_cases i s with ⟨u, -, h⟩ | ⟨u, -, h⟩ | ⟨k, w, a, -, h⟩ | ⟨-, h⟩ <;> exact ⟨_, h⟩

/-! ### The fetched instruction -/

theorem State.nextInstr_eq_some_iff {s : State} {i : Instr} :
    s.nextInstr = some i ↔ ∃ w, s.fetchWord = some w ∧ decodeWord w = .instr i := by
  unfold State.nextInstr
  cases s.fetchWord with
  | none => simp
  | some w => cases hd : decodeWord w <;> simp [hd]

/-- A word is fetched at a PC up to 0xFFE only (R91). -/
theorem State.pc_le_of_nextInstr {s : State} {i : Instr} (h : s.nextInstr = some i) : s.pc.toNat ≤ 0xFFE := by
  obtain ⟨w, hf, -⟩ := State.nextInstr_eq_some_iff.mp h
  rw [State.fetchWord_eq] at hf
  split at hf
  case isTrue hpc => simp only [Config.memSize] at hpc; omega
  case isFalse => cases hf

theorem step_of_nextInstr {s : State} {i : Instr} (hs : s.status = .running) (h : s.nextInstr = some i) :
    step s = exec i s := by
  obtain ⟨w, hf, hd⟩ := State.nextInstr_eq_some_iff.mp h
  exact step_of_instr hs hf hd

/-- The machine is held exactly when it is Running at an Fx0A with no key to draw (44_input_timers.md R164). -/
theorem State.held_iff_drawKey {s : State} :
    s.held = true ↔ s.status = .running ∧ (∃ x, s.nextInstr = some (.ldVxK x)) ∧ s.drawKey = none := by
  simp only [State.held, Bool.and_eq_true, beq_iff_eq, State.nextInstr]
  cases s.fetchWord.map decodeWord with
  | none => simp
  | some d =>
    cases d with
    | unknown w => simp
    | instr i => cases i <;> simp

theorem State.held_iff {s : State} :
    s.held = true ↔ s.status = .running ∧ (∃ x, s.nextInstr = some (.ldVxK x)) ∧ ∀ k : Key, s.latch[k] = false := by
  rw [State.held_iff_drawKey, State.drawKey_eq_none_iff]

/-! ### What a step can do -/

/-- A step that answers a next state was taken by a Running machine, and it raised, was held, or completed its instruction (R90, R93). -/
theorem step_next_cases {s t : State} (h : step s = .next t) :
    s.status = .running ∧
    ((∃ k w a, k.records ⟨s.pc, w, a⟩ = true ∧ t = s.raise k w a) ∨
      (s.held = true ∧ t = s) ∨
      ∃ i u r, s.nextInstr = some i ∧ execute i s = .completed u r ∧ ¬ i.raisesIn s ∧ Writes s i u ∧
        t = u.completeStep r) := by
  rcases step_cases s with ⟨k, info, -, hstep⟩ | ⟨hs, -, hstep⟩ | ⟨w, u, hs, -, -, hstep⟩ | ⟨w, i, hs, hf, hd, hstep⟩ <;>
    rw [hstep] at h
  · cases h
  · cases h
    exact ⟨hs, .inl ⟨_, _, _, rfl, rfl⟩⟩
  · cases h
    exact ⟨hs, .inl ⟨_, _, _, rfl, rfl⟩⟩
  · have hi : s.nextInstr = some i := State.nextInstr_eq_some_iff.mpr ⟨w, hf, hd⟩
    rcases exec_next_cases h with ⟨u, r, he, hn, hw, ht⟩ | ⟨k, w, a, -, hk, ht⟩ | ⟨⟨x, rfl⟩, hdraw, ht⟩
    · exact ⟨hs, .inr (.inr ⟨i, u, r, hi, he, hn, hw, ht⟩)⟩
    · exact ⟨hs, .inl ⟨k, w, a, hk, ht⟩⟩
    · exact ⟨hs, .inr (.inl ⟨State.held_iff_drawKey.mpr ⟨hs, ⟨x, hi⟩, hdraw⟩, ht⟩)⟩

/-- The state a completed step leaves is Running like the one it began in. -/
theorem Writes.completeStep_status {i : Instr} {s u : State} (h : Writes s i u) (r : Bool) :
    (u.completeStep r).status = s.status := by
  rw [State.completeStep_eq]
  exact h.status_eq

/-- A step that is not held and leaves the machine Running has completed its instruction. -/
theorem step_completed {s t : State} {i : Instr} (hi : s.nextInstr = some i) (hheld : s.held = false)
    (h : step s = .next t) (ht : t.status = .running) :
    ∃ u r, execute i s = .completed u r ∧ ¬ i.raisesIn s ∧ Writes s i u ∧ t = u.completeStep r := by
  obtain ⟨-, ⟨k, w, a, -, rfl⟩ | ⟨hh, -⟩ | ⟨j, u, r, hj, he, hn, hw, rfl⟩⟩ := step_next_cases h
  · cases ht
  · cases hh.symm.trans hheld
  · cases hi.symm.trans hj
    exact ⟨u, r, he, hn, hw, rfl⟩

/-! ### The statements about a step -/

/-- Settles O6: the word fetched at PC is that of the two bytes there, and the step executes what it decodes to. -/
theorem stepRunsTheDecodedInstruction : Obligations.StepRunsTheDecodedInstruction := by
  intro s i hs hpc hd
  refine step_of_instr hs ?_ hd
  rw [State.fetchWord_eq, if_pos (by simp only [Config.memSize]; omega)]

/-- Settles O7: at such a PC there is no word to fetch. -/
theorem fetchPastMemoryHalts : Obligations.FetchPastMemoryHalts := by
  intro s hs hpc
  have hf : s.fetchWord = none := by
    rw [State.fetchWord_eq, if_neg (by simp only [Config.memSize]; omega)]
  simp only [step, hs, hf]
  rfl

/-- Settles O11: STATUS is the first thing a step looks at. -/
theorem haltedMachineHasNoStep : Obligations.HaltedMachineHasNoStep := by
  intro s kind info hs
  simp only [step, hs]

/-- Settles O12: of the four things a step can do only the fault of a Halted machine is no next state. -/
theorem runningMachineAnswersANextState : Obligations.RunningMachineAnswersANextState := by
  intro s hs
  rcases step_cases s with ⟨k, info, hh, -⟩ | ⟨-, -, hstep⟩ | ⟨w, u, -, -, -, hstep⟩ | ⟨w, i, -, -, -, hstep⟩
  · cases hs.symm.trans hh
  · exact ⟨_, hstep⟩
  · exact ⟨_, hstep⟩
  · rw [hstep]
    exact exec_exists_next i s

/-- Settles O9: a held or completed step leaves a Running machine, and a raise writes STATUS alone. -/
theorem raisingStepCommitsOnlyStatus : Obligations.RaisingStepCommitsOnlyStatus := by
  intro s t h ht
  obtain ⟨hs, ⟨k, w, a, hk, rfl⟩ | ⟨-, rfl⟩ | ⟨i, u, r, -, -, -, hw, rfl⟩⟩ := step_next_cases h
  · exact ⟨k, ⟨s.pc, w, a⟩, rfl, rfl, hk⟩
  · exact absurd hs ht
  · exact absurd ((hw.completeStep_status r).trans hs) ht

/-- Settles O10: the execute phase raises in the listed states and only there. -/
theorem errorsOfEachInstruction : Obligations.ErrorsOfEachInstruction := by
  intro i s t hs h
  rcases exec_next_cases h with ⟨u, r, -, hn, hw, rfl⟩ | ⟨k, w, a, hr, -, rfl⟩ | ⟨⟨x, rfl⟩, -, rfl⟩
  · exact iff_of_true ((hw.completeStep_status r).trans hs) hn
  · exact iff_of_false (fun hrun => by cases hrun) (not_not_intro hr)
  · exact iff_of_true hs not_false

end Sys2Proof.Machine
end

section

/-! ## PC and DT after a completed step (40_engine.md R94, R95; 41_control_flow.md R107, R108) -/

namespace Sys2Proof.Machine

theorem State.completeStep_pc (u : State) (r : Bool) :
    (u.completeStep r).pc = if r then u.pc else u.pc + 2#16 := by
  cases r <;> exact State.decay_pc _

theorem State.completeStep_dt_toNat (u : State) (r : Bool) : (u.completeStep r).dt.toNat = dtAfter u.params u.dt := by
  cases r <;> exact State.decay_dt_toNat _

section

variable {s : State} (hpc : s.pc.toNat ≤ 0xFFE)

include hpc

theorem State.pc_add_two_toNat : (s.pc + 2#16).toNat = s.pc.toNat + 2 := by bv_omega

/-- The target of a skip from a PC that can be fetched at, as a number: no wrap (R107). -/
theorem State.skipTarget_toNat {taken : Bool} {P : Prop} [Decidable P] (h : taken = true ↔ P) :
    (s.skipTarget taken).toNat = s.pc.toNat + if P then 4 else 2 := by
  unfold State.skipTarget
  by_cases hP : P
  · rw [if_pos (h.mpr hP), if_pos hP]; bv_omega
  · rw [if_neg (fun ht => hP (h.mp ht)), if_neg hP]; bv_omega

end

/-- The target of Bnnn as a number: 12 bits and 8 bits never wrap at 16 (R108). -/
theorem State.offsetTarget_toNat (s : State) (nnn : Addr12) :
    (s.offsetTarget nnn).toNat = nnn.toNat + (s.readV 0).toNat := by
  unfold State.offsetTarget addrOperand
  bv_omega

/-- What a completed execute phase that was fetched makes of PC, by instruction (R94). -/
theorem pc_of_completed {i : Instr} {s u : State} {r : Bool} (hpc : s.pc.toNat ≤ 0xFFE)
    (hn : ¬ i.raisesIn s) (h : execute i s = .completed u r) :
    (if r then u.pc else u.pc + 2#16).toNat = i.nextPc s := by
  cases i with
  | jp nnn => cases h; exact addrOperand_toNat nnn
  | jpV0 nnn => cases h; exact s.offsetTarget_toNat nnn
  | call nnn =>
    have hsp : s.sp.val < 16 := by simp only [Instr.raisesIn] at hn; omega
    rw [execute_call_pushes nnn hsp] at h
    cases h
    exact addrOperand_toNat nnn
  | ret =>
    rw [execute_ret_pops hn] at h
    cases h
    simp only [Instr.raisesIn] at hn
    simp only [Instr.nextPc, hn, if_true, dite_false]
  | seImm x kk | seReg x y => cases h; exact State.skipTarget_toNat hpc beq_iff_eq
  | sneImm x kk | sneReg x y => cases h; exact State.skipTarget_toNat hpc bne_iff_ne
  | skp x =>
    rw [execute_skp_of_allowed ((s.keyIn_allowed_or_fault _).resolve_right hn)] at h
    cases h
    exact State.skipTarget_toNat hpc Iff.rfl
  | sknp x =>
    rw [execute_sknp_of_allowed ((s.keyIn_allowed_or_fault _).resolve_right hn)] at h
    cases h
    refine (State.skipTarget_toNat hpc (P := ¬ s.keyPressed (s.readV x) = true) (by simp)).trans ?_
    rw [ite_not, Instr.nextPc]
  | drw x y n =>
    rw [execute_drw_of_inRange x y (by simp only [Instr.raisesIn] at hn; omega)] at h
    cases h
    exact State.pc_add_two_toNat hpc
  | ldVxK x =>
    cases hd : s.drawKey with
    | none => rw [execute_ldVxK_held x hd] at h; cases h
    | some k =>
      rw [execute_ldVxK_of_key x hd] at h
      cases h
      exact State.pc_add_two_toNat hpc
  | reservedFx29 x => cases h
  | _ => cases h; exact State.pc_add_two_toNat hpc

/-- Settles O13: the step was fetched, so PC is at most 0xFFE and no sum of PC wraps. -/
theorem nextPcOfEveryCompletedStep : Obligations.NextPcOfEveryCompletedStep := by
  intro s t i _ hi hheld h ht
  have hpc : s.pc.toNat ≤ 0xFFE := State.pc_le_of_nextInstr hi
  obtain ⟨u, r, he, hn, -, rfl⟩ := step_completed hi hheld h ht
  exact ⟨(congrArg BitVec.toNat (u.completeStep_pc r)).trans (pc_of_completed hpc hn he), hpc⟩

/-- Settles O14: the decay lowers DT as the execute phase left it, and only Fx15 writes DT there. -/
theorem delayTimerDecaysOncePerCompletedStep : Obligations.DelayTimerDecaysOncePerCompletedStep := by
  intro s t i _ hi hheld h ht
  obtain ⟨u, r, -, -, hw, rfl⟩ := step_completed hi hheld h ht
  rw [u.completeStep_dt_toNat r, hw.params_eq]
  cases hw with
  | register _ x b hx | flagged _ x y b c hx _ =>
    split
    · cases hx
    · rfl
  | jump _ pc hother =>
    split
    · exact absurd rfl (hother _)
    · rfl
  | _ => rfl

end Sys2Proof.Machine
end

section

/-! ## What instructions, steps and transactions leave alone (10_state.md R39 to R47; 20_memory.md R52) -/

namespace Sys2Proof.Machine

/-! ### Phases 4 and 5 change PC and DT alone -/

section

variable (u : State) (r : Bool)

@[simp] theorem State.completeStep_v : (u.completeStep r).v = u.v := by rw [u.completeStep_eq r]
@[simp] theorem State.completeStep_i : (u.completeStep r).i = u.i := by rw [u.completeStep_eq r]
@[simp] theorem State.completeStep_st : (u.completeStep r).st = u.st := by rw [u.completeStep_eq r]
@[simp] theorem State.completeStep_stack : (u.completeStep r).stack = u.stack := by rw [u.completeStep_eq r]
@[simp] theorem State.completeStep_sp : (u.completeStep r).sp = u.sp := by rw [u.completeStep_eq r]
@[simp] theorem State.completeStep_mem : (u.completeStep r).mem = u.mem := by rw [u.completeStep_eq r]
@[simp] theorem State.completeStep_fb : (u.completeStep r).fb = u.fb := by rw [u.completeStep_eq r]
@[simp] theorem State.completeStep_dirty : (u.completeStep r).dirty = u.dirty := by rw [u.completeStep_eq r]
@[simp] theorem State.completeStep_latch : (u.completeStep r).latch = u.latch := by rw [u.completeStep_eq r]
@[simp] theorem State.completeStep_params : (u.completeStep r).params = u.params := by rw [u.completeStep_eq r]
@[simp] theorem State.completeStep_draws : (u.completeStep r).draws = u.draws := by rw [u.completeStep_eq r]
@[simp] theorem State.readV_completeStep (x : Reg) : (u.completeStep r).readV x = u.readV x := by
  simp only [State.readV, State.completeStep_v]

end

/-! ### Instructions -/

/-- No instruction writes memory, the latch or the configuration (R39). -/
theorem exec_keeps {i : Instr} {s t : State} (h : exec i s = .next t) :
    t.mem = s.mem ∧ t.latch = s.latch ∧ t.params = s.params := by
  rcases exec_next_cases h with ⟨u, r, -, -, hw, rfl⟩ | ⟨k, w, a, -, -, rfl⟩ | ⟨-, -, rfl⟩
  · rw [State.completeStep_mem, State.completeStep_latch, State.completeStep_params]
    exact ⟨hw.mem_eq, hw.latch_eq, hw.params_eq⟩
  · exact ⟨rfl, rfl, rfl⟩
  · exact ⟨rfl, rfl, rfl⟩

/-- Settles O44: a completed phase writes registers of the write set alone, and the other ends write none. -/
theorem registersOutsideTheWriteSetStay : Obligations.RegistersOutsideTheWriteSetStay := by
  intro i s t y h hy
  rcases exec_next_cases h with ⟨u, r, -, -, hw, rfl⟩ | ⟨k, w, a, -, -, rfl⟩ | ⟨-, -, rfl⟩
  · rw [State.readV_completeStep, hw.readV_eq hy]
  · rfl
  · rfl

/-- The fields other than the general registers, PC and DT, and the instructions that write them (R39). -/
theorem Writes.changes {i : Instr} {s u : State} (h : Writes s i u) :
    (u.i ≠ s.i → ∃ nnn, i = .ldI nnn) ∧
    (u.st ≠ s.st → ∃ x, i = .ldSTVx x) ∧
    (u.fb ≠ s.fb ∨ u.dirty ≠ s.dirty → (i = .cls ∨ ∃ x y n, i = .drw x y n) ∧ u.dirty = true) ∧
    (u.stack ≠ s.stack → ∃ nnn, i = .call nnn) ∧
    (u.sp ≠ s.sp → i = .ret ∨ ∃ nnn, i = .call nnn) ∧
    (u.draws ≠ s.draws → (∃ x kk, i = .rnd x kk) ∨ ∃ x, i = .ldVxK x) := by
  cases h <;> simp

/-- Settles O45: the writes of a completed phase are its instruction's, and the other ends write STATUS alone. -/
theorem otherStateChangesOnlyByItsInstructions : Obligations.OtherStateChangesOnlyByItsInstructions := by
  intro i s t h
  obtain ⟨-, hlatch, hparams⟩ := exec_keeps h
  rcases exec_next_cases h with ⟨u, r, -, -, hw, rfl⟩ | ⟨k, w, a, -, -, rfl⟩ | ⟨-, -, rfl⟩
  · obtain ⟨hi, hst, hfb, hstack, hsp, hdraws⟩ := hw.changes
    simp only [State.completeStep_i, State.completeStep_st, State.completeStep_fb, State.completeStep_dirty,
      State.completeStep_stack, State.completeStep_sp, State.completeStep_draws]
    exact ⟨hi, hst, hfb, hstack, hsp, hdraws, hparams, hlatch⟩
  · simp
  · simp

/-! ### Steps -/

theorem step_keeps {s t : State} (h : step s = .next t) :
    t.mem = s.mem ∧ t.latch = s.latch ∧ t.params = s.params := by
  obtain ⟨-, ⟨k, w, a, -, rfl⟩ | ⟨-, rfl⟩ | ⟨i, u, r, -, -, -, hw, rfl⟩⟩ := step_next_cases h
  · exact ⟨rfl, rfl, rfl⟩
  · exact ⟨rfl, rfl, rfl⟩
  · rw [State.completeStep_mem, State.completeStep_latch, State.completeStep_params]
    exact ⟨hw.mem_eq, hw.latch_eq, hw.params_eq⟩

/-- Settles O49: only Annn writes I, with 12 bits; a new machine has I = 0. -/
theorem indexStaysTwelveBits : Obligations.IndexStaysTwelveBits := by
  refine ⟨fun s t hi h => ?_, by decide⟩
  obtain ⟨-, ⟨k, w, a, -, rfl⟩ | ⟨-, rfl⟩ | ⟨i, u, r, -, -, -, hw, rfl⟩⟩ := step_next_cases h
  · exact hi
  · exact hi
  · rw [State.completeStep_i]
    cases hw with
    | index nnn =>
      rw [State.writeI_i, addrOperand_toNat]
      omega
    | _ => exact hi

/-! ### Transactions -/

theorem State.load_some {s t : State} {bytes : List Byte} (h : s.load bytes = some t) :
    bytes.length ≤ 1024 ∧ t = { s with mem := Memory.writeBytes s.mem 0x200 bytes, pc := 0x200#16 } := by
  by_cases hlen : bytes.length ≤ 1024
  · rw [s.load_fits hlen] at h
    exact ⟨hlen, (Option.some.inj h).symm⟩
  · rw [s.load_too_large (by omega)] at h
    cases h

/-- No transaction changes the configuration; memory changes by load alone, the latch by set_key alone (R43, R44). -/
theorem Session.move_keeps {S T : Session} {m : HostMove} {r : Reply} (h : S.move m = .done T r) :
    T.machine.params = S.machine.params ∧
    ((∀ bytes, m ≠ .load bytes) → T.machine.mem = S.machine.mem) ∧
    ((∀ code pressed, m ≠ .setKey code pressed) → T.machine.latch = S.machine.latch) := by
  rcases Session.move_cases h with ⟨bytes, t, rfl, -, -, ht, rfl, -⟩ | ⟨bytes, rfl, -, -, -, rfl, -⟩ |
    ⟨t, rfl, -, ht, rfl, -⟩ | ⟨code, pressed, t, rfl, ht, rfl, -⟩ | ⟨rfl, rfl, -⟩ | ⟨rfl, rfl, -⟩ | ⟨t, rfl, ht, rfl, -⟩
  · obtain ⟨-, rfl⟩ := State.load_some ht
    exact ⟨rfl, fun hm => absurd rfl (hm bytes), fun _ => rfl⟩
  · exact ⟨rfl, fun _ => rfl, fun _ => rfl⟩
  · obtain ⟨hmem, hlatch, hparams⟩ := step_keeps ht
    exact ⟨hparams, fun _ => hmem, fun _ => hlatch⟩
  · obtain ⟨hc, rfl⟩ := State.setKey_some ht
    exact ⟨rfl, fun _ => rfl, fun hm => absurd rfl (hm code pressed)⟩
  · exact ⟨rfl, fun _ => rfl, fun _ => rfl⟩
  · exact ⟨rfl, fun _ => rfl, fun _ => rfl⟩
  · obtain ⟨-, -, rfl⟩ := State.tick_some ht
    exact ⟨rfl, fun _ => rfl, fun _ => rfl⟩

/-- A load and a step close load (70_reset_and_hazards.md R231). -/
theorem Session.move_closes {S T : Session} {m : HostMove} {r : Reply} (h : S.move m = .done T r)
    (hm : m = .step ∨ ∃ bytes, m = .load bytes) : T.loadOpen = false := by
  rcases Session.move_cases h with ⟨bytes, t, -, -, -, -, rfl, -⟩ | ⟨bytes, -, -, -, -, rfl, -⟩ |
    ⟨t, -, -, -, rfl, -⟩ | ⟨code, pressed, t, rfl, -⟩ | ⟨rfl, -⟩ | ⟨rfl, -⟩ | ⟨t, rfl, -⟩
  · rfl
  · rfl
  · rfl
  all_goals simp at hm

/-- The other transactions leave load as it is. -/
theorem Session.move_loadOpen {S T : Session} {m : HostMove} {r : Reply} (h : S.move m = .done T r)
    (hm : m ≠ .step ∧ ∀ bytes, m ≠ .load bytes) : T.loadOpen = S.loadOpen := by
  obtain ⟨hstep, hload⟩ := hm
  rcases Session.move_cases h with ⟨bytes, t, rfl, -⟩ | ⟨bytes, rfl, -⟩ |
    ⟨t, rfl, -⟩ | ⟨code, pressed, t, -, -, rfl, -⟩ | ⟨-, rfl, -⟩ | ⟨-, rfl, -⟩ | ⟨t, -, -, rfl, -⟩
  · exact absurd rfl (hload bytes)
  · exact absurd rfl (hload bytes)
  · exact absurd rfl hstep
  all_goals rfl

/-- Load stays closed (R231). -/
theorem Session.move_stays_closed {S T : Session} {m : HostMove} {r : Reply} (hS : S.loadOpen = false)
    (h : S.move m = .done T r) : T.loadOpen = false := by
  by_cases hm : m = .step ∨ ∃ bytes, m = .load bytes
  · exact Session.move_closes h hm
  · rw [Session.move_loadOpen h (by simpa using hm), hS]

theorem Session.run_stays_closed {S : Session} (hS : S.loadOpen = false) (moves : List HostMove) :
    (S.run moves).loadOpen = false :=
  Session.run_induction (P := fun T => T.loadOpen = false) (fun _ _ _ _ => Session.move_stays_closed) S moves hS

/-- A load that is closed is no move (R231). -/
theorem Session.move_load_of_closed {S : Session} (hS : S.loadOpen = false) (bytes : List Byte) :
    ∃ why, S.move (.load bytes) = .noMove why := by
  simp only [Session.move, Session.load]
  split
  · exact ⟨_, rfl⟩
  · rw [hS]
    exact ⟨_, rfl⟩

/-- Once load is closed memory is constant, whatever the host does (20_memory.md R52). -/
theorem Session.run_mem_of_closed {S : Session} (hS : S.loadOpen = false) (moves : List HostMove) :
    (S.run moves).machine.mem = S.machine.mem := by
  have keeps (U T : Session) (m : HostMove) (r : Reply) (hU : U.loadOpen = false ∧ U.machine.mem = S.machine.mem)
      (h : U.move m = .done T r) : T.loadOpen = false ∧ T.machine.mem = S.machine.mem := by
    obtain ⟨hclosed, hUmem⟩ := hU
    obtain ⟨-, hmem, -⟩ := Session.move_keeps h
    have hload (bytes : List Byte) : m ≠ .load bytes := by
      rintro rfl
      obtain ⟨why, hno⟩ := Session.move_load_of_closed hclosed bytes
      cases hno.symm.trans h
    exact ⟨Session.move_stays_closed hclosed h, (hmem hload).trans hUmem⟩
  obtain ⟨-, hmem⟩ := Session.run_induction keeps S moves ⟨hS, rfl⟩
  exact hmem

/-- Settles O43: load alone writes memory, and once it is closed it is no move again. -/
theorem onlyLoadWritesMemory : Obligations.OnlyLoadWritesMemory := by
  refine ⟨fun i s t h => ?instr, fun s t h a => ?step, fun S T m r h hm => ?move, fun S T m r h hm => ?closes,
    fun S moves hS => ?run⟩
  case instr =>
    obtain ⟨hmem, -, -⟩ := exec_keeps h
    exact hmem
  case step =>
    obtain ⟨hmem, -, -⟩ := step_keeps h
    rw [hmem]
  case move =>
    obtain ⟨-, hmem, -⟩ := Session.move_keeps h
    exact hmem hm
  case closes => exact Session.move_closes h hm
  case run => exact Session.run_mem_of_closed hS moves

/-- Settles O48: each transaction that is done keeps the configuration, so every sequence of them does. -/
theorem configurationNeverChanges : Obligations.ConfigurationNeverChanges := by
  intro S moves
  refine Session.run_induction (P := fun T => T.machine.params = S.machine.params) (fun U T m r hU h => ?_) S moves rfl
  obtain ⟨hparams, -, -⟩ := Session.move_keeps h
  exact hparams.trans hU

end Sys2Proof.Machine
end

section

/-! ## What no instruction reads (10_state.md R26, R31, R32) -/

namespace Sys2Proof.Machine

/-- The same end of an execute phase, with the state that a completed one leaves changed by `f`. -/
def Execution.map (f : State → State) : Execution → Execution
  | .completed u r => .completed (f u) r
  | .raised k w a => .raised k w a
  | .held => .held

/-! ### LATCH -/

/-- The state with another input latch. -/
def State.withLatch (s : State) (l : Latch) : State := { s with latch := l }

theorem State.decay_withLatch (s : State) (l : Latch) : (s.withLatch l).decay = s.decay.withLatch l := by
  unfold State.decay
  cases h : s.params.dtDecay with
  | perStep => simp only [State.withLatch, h]; rfl
  | hostTick => simp only [State.withLatch, h]

theorem finish_withLatch {s t : State} {e : Execution} (h : finish s e = .next t) (l : Latch) :
    finish (s.withLatch l) (e.map (·.withLatch l)) = .next (t.withLatch l) := by
  rcases finish_cases s t e h with ⟨u, rfl, rfl⟩ | ⟨u, rfl, rfl⟩ | ⟨k, w, a, rfl, rfl⟩ | ⟨rfl, rfl⟩
  · exact congrArg Host.Outcome.next (u.advance.decay_withLatch l)
  · exact congrArg Host.Outcome.next (u.decay_withLatch l)
  · rfl
  · rfl

/-- The execute phase of an instruction other than Ex9E, ExA1 and Fx0A does not look at the latch (R32). -/
theorem execute_withLatch {i : Instr} (s : State) (l : Latch) (hskp : ∀ x, i ≠ .skp x) (hsknp : ∀ x, i ≠ .sknp x)
    (hkey : ∀ x, i ≠ .ldVxK x) : execute i (s.withLatch l) = (execute i s).map (·.withLatch l) := by
  cases i with
  | skp x => exact absurd rfl (hskp x)
  | sknp x => exact absurd rfl (hsknp x)
  | ldVxK x => exact absurd rfl (hkey x)
  | ret => rw [execute_ret_eq_dite, execute_ret_eq_dite, apply_dite (Execution.map _)]; rfl
  | call nnn => rw [execute_call_eq_dite, execute_call_eq_dite, apply_dite (Execution.map _)]; rfl
  | drw x y n => rw [execute_drw_eq_ite, execute_drw_eq_ite, apply_ite (Execution.map _)]; rfl
  | _ => rfl

/-- A set_key below 16 is done in every session, and sets one key of the latch alone (R43). -/
theorem Session.move_setKey (S : Session) {code : Nat} (hc : code < 16) (pressed : Bool) :
    S.move (.setKey code pressed) =
      .done { S with machine := S.machine.withLatch (S.machine.latch.setKey ⟨code, hc⟩ pressed) } .keySet := by
  simp only [Session.move, Session.setKey, State.setKey, hc, dif_pos]
  rfl

/-- Settles O46: set_key alone writes the latch, and outside the three key instructions the phase runs alike under every latch. -/
theorem latchBelongsToTheHost : Obligations.LatchBelongsToTheHost := by
  refine ⟨fun s t h => ?_, fun S T m r h hm => ?_, fun S code pressed hc => ?_, fun S code pressed hc => ?_,
    fun i s t l hskp hsknp hkey h => ?_⟩
  · obtain ⟨-, hlatch, -⟩ := step_keeps h
    exact hlatch
  · obtain ⟨-, -, hlatch⟩ := Session.move_keeps h
    exact hlatch hm
  · refine ⟨_, S.move_setKey hc pressed, rfl, fun k => ?_⟩
    refine (Latch.getElem_setKey _ _ _ _).trans (if_congr ?_ rfl rfl)
    exact Fin.ext_iff
  · simp only [Session.move, Session.setKey, State.setKey, dif_neg (Nat.not_lt.mpr hc)]
  · rw [exec_eq_finish] at h ⊢
    exact (congrArg _ (execute_withLatch s l hskp hsknp hkey)).trans (finish_withLatch h l)

/-! ### ST and DIRTY -/

/-- The state with other values in ST and DIRTY. -/
def State.withSoundAndDirty (s : State) (a : Byte) (d : Bool) : State := { s with st := a, dirty := d }

theorem State.decay_withSoundAndDirty (s : State) (a : Byte) (d : Bool) :
    (s.withSoundAndDirty a d).decay = s.decay.withSoundAndDirty a d := by
  unfold State.decay
  cases h : s.params.dtDecay with
  | perStep => simp only [State.withSoundAndDirty, h]; rfl
  | hostTick => simp only [State.withSoundAndDirty, h]

theorem finish_withSoundAndDirty {s t : State} {e : Execution} (h : finish s e = .next t) (a a' : Byte) (d d' : Bool) :
    ∃ b c, finish (s.withSoundAndDirty a d) (e.map (·.withSoundAndDirty a' d')) = .next (t.withSoundAndDirty b c) := by
  rcases finish_cases s t e h with ⟨u, rfl, rfl⟩ | ⟨u, rfl, rfl⟩ | ⟨k, w, x, rfl, rfl⟩ | ⟨rfl, rfl⟩
  · exact ⟨a', d', congrArg Host.Outcome.next (u.advance.decay_withSoundAndDirty a' d')⟩
  · exact ⟨a', d', congrArg Host.Outcome.next (u.decay_withSoundAndDirty a' d')⟩
  · exact ⟨a, d, rfl⟩
  · exact ⟨a, d, rfl⟩

/-- No execute phase looks at ST or DIRTY: with other values there it ends alike, but for ST and DIRTY (R26, R31). Fx18 overwrites ST, and 00E0 and Dxyn overwrite DIRTY. -/
theorem execute_withSoundAndDirty (i : Instr) (s : State) (a : Byte) (d : Bool) :
    ∃ a' d', execute i (s.withSoundAndDirty a d) = (execute i s).map (·.withSoundAndDirty a' d') := by
  cases i with
  | ldSTVx x => exact ⟨s.readV x, d, rfl⟩
  | cls => exact ⟨a, true, rfl⟩
  | drw x y n =>
    refine ⟨a, true, ?_⟩
    rw [execute_drw_eq_ite, execute_drw_eq_ite, apply_ite (Execution.map _)]; rfl
  | ret =>
    refine ⟨a, d, ?_⟩
    rw [execute_ret_eq_dite, execute_ret_eq_dite, apply_dite (Execution.map _)]; rfl
  | call nnn =>
    refine ⟨a, d, ?_⟩
    rw [execute_call_eq_dite, execute_call_eq_dite, apply_dite (Execution.map _)]; rfl
  | skp x =>
    refine ⟨a, d, ?_⟩
    rw [execute_skp_eq_ite, execute_skp_eq_ite, apply_ite (Execution.map _)]; rfl
  | sknp x =>
    refine ⟨a, d, ?_⟩
    rw [execute_sknp_eq_ite, execute_sknp_eq_ite, apply_ite (Execution.map _)]; rfl
  | ldVxK x =>
    refine ⟨a, d, ?_⟩
    cases h : s.drawKey with
    | none => rw [execute_ldVxK_held x h, execute_ldVxK_held (s := s.withSoundAndDirty a d) x h]; rfl
    | some k => rw [execute_ldVxK_of_key x h, execute_ldVxK_of_key (s := s.withSoundAndDirty a d) x h]; rfl
  | _ => exact ⟨a, d, rfl⟩

/-- Settles O47: the phase ends alike with other values in ST and DIRTY, and so does the step. -/
theorem soundTimerAndDirtyAreNeverRead : Obligations.SoundTimerAndDirtyAreNeverRead := by
  intro i s t a d h
  rw [exec_eq_finish] at h
  obtain ⟨a', d', he⟩ := execute_withSoundAndDirty i s a d
  obtain ⟨b, c, hfin⟩ := finish_withSoundAndDirty h a a' d d'
  refine ⟨t.withSoundAndDirty b c, ?_, rfl⟩
  exact (exec_eq_finish i _).trans ((congrArg _ he).trans hfin)

end Sys2Proof.Machine
end

section

/-! ## The invariants of machines and sessions (10_state.md; 20_memory.md R50 to R52; 60_exceptions.md R200, R204) -/

namespace Sys2Proof.Machine

/-! ### The machine's invariant -/

/-- The invariant speaks of memory, PC, the stack and STATUS alone. -/
theorem State.Inv.of_eq {s t : State} (hs : s.Inv) (hmem : t.mem = s.mem) (hpc : t.pc = s.pc) (hstack : t.stack = s.stack)
    (hsp : t.sp = s.sp) (hstatus : t.status = s.status) : t.Inv where
  memory := hmem ▸ hs.memory
  pcBound := hpc ▸ hs.pcBound
  stackBound := by rw [hstack, hsp]; exact hs.stackBound
  haltedRecord := by rw [hstatus, hpc]; exact hs.haltedRecord

/-- Taking an error keeps the invariant: its record has PC and its kind's info (R204). -/
theorem State.Inv.raise {s : State} (hs : s.Inv) {k : ErrorKind} {w a : Option Word}
    (hk : k.records ⟨s.pc, w, a⟩ = true) : (s.raise k w a).Inv where
  memory := hs.memory
  pcBound := hs.pcBound
  stackBound := hs.stackBound
  haltedRecord := by
    intro kind info h
    cases h
    exact ⟨rfl, hk⟩

/-- The largest PC a completed step leaves is that of Bnnn, 0xFFF + 0xFF (10_state.md R24). -/
theorem State.Inv.nextPc_le {s : State} (hs : s.Inv) (hpc : s.pc.toNat ≤ 0xFFE) (i : Instr) : i.nextPc s ≤ 0x10FE := by
  cases i with
  | ret =>
    simp only [Instr.nextPc]
    split
    · omega
    · have htop := hs.stackBound ⟨s.sp.val - 1, by omega⟩ (by simp only; omega)
      exact htop.trans (by decide)
  | seImm _ _ | sneImm _ _ | seReg _ _ | sneReg _ _ | skp _ | sknp _ =>
    simp only [Instr.nextPc]
    split <;> omega
  | _ => simp only [Instr.nextPc]; omega

/-- A call pushes an address at most 0x1000, and a return frees an entry (41_control_flow.md R100, R102). -/
theorem Writes.stackBound {i : Instr} {s u : State} (h : Writes s i u) (hs : s.Inv) (hpc : s.pc.toNat ≤ 0xFFE)
    (j : Fin 16) (hj : j.val < u.sp.val) : u.stack[j].toNat ≤ 0x1000 := by
  cases h with
  | call nnn hsp =>
    simp only [Fin.getElem_fin, Vector.getElem_set]
    split
    · rw [State.pc_add_two_toNat hpc]; omega
    · exact hs.stackBound j (by simp only at hj; omega)
  | ret hsp => exact hs.stackBound j (by simp only at hj; omega)
  | _ => exact hs.stackBound j hj

theorem State.Inv.step {s t : State} (hs : s.Inv) (h : step s = .next t) : t.Inv := by
  obtain ⟨hrun, ⟨k, w, a, hk, rfl⟩ | ⟨-, rfl⟩ | ⟨i, u, r, hi, he, hn, hw, rfl⟩⟩ := step_next_cases h
  · exact hs.raise hk
  · exact hs
  · have hpc : s.pc.toNat ≤ 0xFFE := State.pc_le_of_nextInstr hi
    refine ⟨?memory, ?pc, ?stack, ?record⟩
    case memory => rw [State.completeStep_mem, hw.mem_eq]; exact hs.memory
    case pc => rw [State.completeStep_pc, pc_of_completed hpc hn he]; exact hs.nextPc_le hpc i
    case stack => rw [State.completeStep_stack, State.completeStep_sp]; exact hw.stackBound hs hpc
    case record =>
      rw [hw.completeStep_status r, hrun]
      intro kind info hhalted
      cases hhalted

/-- Settles O50: an error changes STATUS alone, and a completed step has PC and the pushed entry bounded. -/
theorem stepKeepsTheInvariant : Obligations.StepKeepsTheInvariant :=
  fun _ _ hs h => hs.step h

theorem State.create_inv (p : Config.Params) (draw : Fill) : (State.create p draw).Inv where
  memory := Memory.wf_nil
  pcBound := by simp only [State.create]; decide
  stackBound := fun j hj => absurd hj (Nat.not_lt_zero j.val)
  haltedRecord := by
    intro kind info h
    cases h

/-- Settles O51: a new machine has empty memory, PC 0x200, no stack entry and no error, whatever was drawn. -/
theorem newMachineSatisfiesTheInvariant : Obligations.NewMachineSatisfiesTheInvariant :=
  ⟨State.create_inv, State.create_inv _ _⟩

/-! ### The session's invariant -/

theorem Session.create_inv (p : Config.Params) (draw : Fill) : (Session.create p draw).Inv where
  machine := State.create_inv p draw
  unloaded := fun _ => rfl
  outside := fun _ _ => rfl

/-- What a transaction other than load needs to keep the session's invariant: memory as it was, and load not reopened. -/
theorem Session.Inv.of_mem_eq {S T : Session} (hS : S.Inv) (hmachine : T.machine.Inv)
    (hmem : T.machine.mem = S.machine.mem) (hopen : T.loadOpen = true → S.loadOpen = true) : T.Inv where
  machine := hmachine
  unloaded := fun h => hmem.trans (hS.unloaded (hopen h))
  outside := fun a ha => hmem ▸ hS.outside a ha

/-- Loading an image that fits keeps the machine's invariant (10_state.md R44). -/
theorem State.Inv.load {s t : State} {bytes : List Byte} (hs : s.Inv) (hrun : s.status = .running)
    (h : s.load bytes = some t) : t.Inv := by
  obtain ⟨-, rfl⟩ := State.load_some h
  refine ⟨Memory.wf_writeBytes hs.memory _ _, by simp only; decide, hs.stackBound, ?_⟩
  intro kind info hhalted
  cases hrun.symm.trans hhalted

/-- An image that fits leaves every byte outside 0x200 .. 0x5FF as it was (R44). -/
theorem State.load_read_outside {s t : State} {bytes : List Byte} (hs : Memory.wf s.mem) (h : s.load bytes = some t)
    {a : Nat} (ha : a < 0x200 ∨ 0x600 ≤ a) : Memory.read t.mem a = Memory.read s.mem a := by
  obtain ⟨hlen, rfl⟩ := State.load_some h
  rw [Memory.read_writeBytes hs _ _ (by simp only [Config.memSize]; omega)]
  split
  · rw [List.getElem?_eq_none (by omega), Option.getD_none]
  · rfl

/-- Every transaction that is done keeps the session's invariant. -/
theorem Session.Inv.move {S T : Session} {m : HostMove} {r : Reply} (hS : S.Inv) (h : S.move m = .done T r) : T.Inv := by
  have hm : S.machine.Inv := hS.machine
  rcases Session.move_cases h with ⟨bytes, t, -, hrun, -, ht, rfl, -⟩ | ⟨bytes, -, -, -, -, rfl, -⟩ |
    ⟨t, -, -, ht, rfl, -⟩ | ⟨code, pressed, t, -, ht, rfl, -⟩ | ⟨-, rfl, -⟩ | ⟨-, rfl, -⟩ | ⟨t, -, ht, rfl, -⟩
  · refine ⟨hm.load hrun ht, nofun, fun a ha => ?_⟩
    exact (State.load_read_outside hm.memory ht ha).trans (hS.outside a ha)
  · exact hS.of_mem_eq hm rfl nofun
  · obtain ⟨hmem, -, -⟩ := step_keeps ht
    exact hS.of_mem_eq (hm.step ht) hmem nofun
  · obtain ⟨hc, rfl⟩ := State.setKey_some ht
    exact hS.of_mem_eq (hm.of_eq rfl rfl rfl rfl rfl) rfl id
  · exact hS.of_mem_eq (hm.of_eq rfl rfl rfl rfl rfl) rfl id
  · exact hS
  · obtain ⟨-, -, rfl⟩ := State.tick_some ht
    exact hS.of_mem_eq (hm.of_eq rfl rfl rfl rfl rfl) rfl id

/-- Settles O59: load writes into its place and is then closed; the step keeps the machine's invariant; the rest do not touch memory, PC, the stack or STATUS. -/
theorem everyHostMoveKeepsTheSessionInvariant : Obligations.EveryHostMoveKeepsTheSessionInvariant :=
  ⟨Session.create_inv, fun _ _ _ _ hS h => hS.move h⟩

/-- Settles O52: the session's invariant holds at creation, and every transaction keeps it. -/
theorem everyReachableSessionSatisfiesTheInvariant : Obligations.EveryReachableSessionSatisfiesTheInvariant := by
  rintro S ⟨p, draw, moves, rfl⟩
  have hInv : ((Session.create p draw).run moves).Inv :=
    Session.run_induction (fun _ _ _ _ hS h => hS.move h) _ moves (Session.create_inv p draw)
  exact ⟨hInv.machine, hInv.unloaded, hInv.outside⟩

end Sys2Proof.Machine
end

section

/-! ## The host's transactions (10_state.md R40 to R47; 70_reset_and_hazards.md R230, R231) -/

namespace Sys2Proof.Machine

/-! ### load -/

section

variable {S : Session} (hrun : S.machine.status = .running) (hopen : S.loadOpen = true) {bytes : List Byte}

include hrun hopen

/-- A load is admitted on a Running machine while load is open, and closes it (R231). -/
theorem Session.move_load_of_some {t : State} (h : S.machine.load bytes = some t) :
    S.move (.load bytes) = .done ⟨t, false⟩ .loaded := by
  simp only [Session.move, Session.load, hrun, hopen, if_true, h]

theorem Session.move_load_of_none (h : S.machine.load bytes = none) :
    S.move (.load bytes) = .done ⟨S.machine, false⟩ .programTooLarge := by
  simp only [Session.move, Session.load, hrun, hopen, if_true, h]

end

/-- Settles O54: the image is written byte after byte from 0x200 on, and an image too large is refused before any write. -/
theorem loadPlacesTheImageAtProgBase : Obligations.LoadPlacesTheImageAtProgBase := by
  intro S bytes hwf hopen hrun
  refine ⟨fun hlarge => Session.move_load_of_none hrun hopen (State.load_too_large _ hlarge), fun hfits => ?_⟩
  refine ⟨_, Session.move_load_of_some hrun hopen (State.load_fits _ hfits), rfl, fun a => ?_⟩
  rw [Memory.read_writeBytes hwf _ _ (by simp only [Config.memSize]; omega)]
  by_cases hin : 0x200 ≤ a ∧ a < 0x200 + bytes.length
  · obtain ⟨hlow, hhigh⟩ := hin
    rw [if_pos hlow, dif_pos ⟨hlow, hhigh⟩, List.getElem?_eq_getElem (by omega), Option.getD_some]
  · rw [dif_neg hin]
    split
    · rw [List.getElem?_eq_none (by omega), Option.getD_none]
    · rfl

/-- A transaction other than step leaves STATUS alone. -/
theorem Session.move_status {S T : Session} {m : HostMove} {r : Reply} (h : S.move m = .done T r) (hm : m ≠ .step) :
    T.machine.status = S.machine.status := by
  rcases Session.move_cases h with ⟨bytes, t, -, -, -, ht, rfl, -⟩ | ⟨bytes, -, -, -, -, rfl, -⟩ |
    ⟨t, rfl, -⟩ | ⟨code, pressed, t, -, ht, rfl, -⟩ | ⟨-, rfl, -⟩ | ⟨-, rfl, -⟩ | ⟨t, -, ht, rfl, -⟩
  · obtain ⟨-, rfl⟩ := State.load_some ht
    rfl
  · rfl
  · exact absurd rfl hm
  · obtain ⟨hc, rfl⟩ := State.setKey_some ht
    rfl
  · rfl
  · rfl
  · obtain ⟨-, -, rfl⟩ := State.tick_some ht
    rfl

/-- Transactions other than load and step leave a session Running with load open (R231). -/
theorem Session.run_stays_open {S : Session} {moves : List HostMove}
    (hm : ∀ m ∈ moves, m ≠ .step ∧ ∀ b, m ≠ .load b) (hrun : S.machine.status = .running) (hopen : S.loadOpen = true) :
    (S.run moves).machine.status = .running ∧ (S.run moves).loadOpen = true := by
  induction moves generalizing S with
  | nil => exact ⟨hrun, hopen⟩
  | cons m rest ih =>
    obtain ⟨hhead, htail⟩ := List.forall_mem_cons.mp hm
    simp only [Session.run]
    split
    · rename_i h
      exact ih htail ((Session.move_status h hhead.1).trans hrun) ((Session.move_loadOpen h hhead).trans hopen)
    · exact ih htail hrun hopen
    · exact ih htail hrun hopen

/-- Settles O55: the other transactions keep load open on a Running machine; closed, load is no move, and stays closed. -/
theorem loadIsAdmittedOnceBeforeTheFirstStep : Obligations.LoadIsAdmittedOnceBeforeTheFirstStep := by
  refine ⟨fun p draw moves bytes hm => ?_, fun S T m r h hm moves bytes => ?_⟩
  · obtain ⟨hrun, hopen⟩ := Session.run_stays_open (S := Session.create p draw) hm rfl rfl
    cases hload : ((Session.create p draw).run moves).machine.load bytes with
    | none => exact ⟨_, _, Session.move_load_of_none hrun hopen hload⟩
    | some t => exact ⟨_, _, Session.move_load_of_some hrun hopen hload⟩
  · exact Session.move_load_of_closed (Session.run_stays_closed (Session.move_closes h hm) moves) bytes

/-! ### step -/

theorem Session.move_step_of_held {S : Session} (h : S.machine.held = true) : S.move .step = .held := by
  simp only [Session.move, Session.step, h, if_true]

theorem Session.move_step_of_next {S : Session} {t : State} (hheld : S.machine.held = false)
    (h : Sys2Proof.Machine.step S.machine = .next t) : S.move .step = .done ⟨t, false⟩ .stepped := by
  simp only [Session.move, Session.step, hheld, h]
  rfl

theorem State.held_eq_false_of_not_running {s : State} (hs : s.status ≠ .running) : s.held = false := by
  refine Bool.eq_false_iff.mpr fun hheld => ?_
  obtain ⟨hrun, -, -⟩ := State.held_iff.mp hheld
  exact hs hrun

theorem Session.move_step_of_halted {S : Session} {kind : ErrorKind} {info : ErrorInfo}
    (hs : S.machine.status = .halted kind info) : S.move .step = .noMove .halted := by
  have hheld : S.machine.held = false := State.held_eq_false_of_not_running (by rw [hs]; simp)
  simp only [Session.move, Session.step, hheld, haltedMachineHasNoStep _ _ _ hs]
  rfl

/-- A step call is held, done, or no move (10_state.md R42). -/
theorem Session.move_step_cases (S : Session) :
    (S.machine.held = true ∧ S.move .step = .held) ∨
    (S.machine.status = .running ∧ S.machine.held = false ∧
      ∃ t, Sys2Proof.Machine.step S.machine = .next t ∧ S.move .step = .done ⟨t, false⟩ .stepped) ∨
    (S.machine.status ≠ .running ∧ S.machine.held = false ∧ S.move .step = .noMove .halted) := by
  cases hs : S.machine.status with
  | halted kind info =>
    have hne : S.machine.status ≠ .running := by rw [hs]; simp
    exact .inr (.inr ⟨hs ▸ hne, State.held_eq_false_of_not_running hne, Session.move_step_of_halted hs⟩)
  | running =>
    cases hheld : S.machine.held with
    | true => exact .inl ⟨rfl, Session.move_step_of_held hheld⟩
    | false =>
      obtain ⟨t, ht⟩ := runningMachineAnswersANextState S.machine hs
      exact .inr (.inl ⟨rfl, rfl, t, ht, Session.move_step_of_next hheld ht⟩)

/-- Settles O16: a step call is held, done or no move as the machine is held, Running and not held, or Halted. -/
theorem stepIsAMoveExactlyWhenEnabled : Obligations.StepIsAMoveExactlyWhenEnabled := by
  intro S
  have hiff := State.held_iff (s := S.machine)
  rcases S.move_step_cases with ⟨hheld, hm⟩ | ⟨hs, hheld, t, ht, hm⟩ | ⟨hs, hheld, hm⟩ <;> rw [hm]
  · obtain ⟨hs, hwait⟩ := hiff.mp hheld
    exact ⟨hiff, by simp [hs, hwait], by simp [hwait], by simp [hs], by simp⟩
  · have hgo := fun hwait => Bool.eq_false_iff.mp hheld (hiff.mpr ⟨hs, hwait⟩)
    refine ⟨hiff, iff_of_false (by simp) (fun h => hgo h.2), iff_of_true ⟨_, _, rfl⟩ ⟨hs, hgo⟩, by simp [hs], ?_⟩
    rintro T r h
    cases h
    exact ⟨ht, rfl⟩
  · exact ⟨hiff, by simp [hs], by simp [hs], by simp [hs], by simp⟩

/-! ### A Halted machine (60_exceptions.md R207) -/

/-- A transaction on a Halted machine that is done changes LATCH and DIRTY at most. -/
theorem Session.move_of_halted {S T : Session} {m : HostMove} {r : Reply} {kind : ErrorKind} {info : ErrorInfo}
    (hs : S.machine.status = .halted kind info) (h : S.move m = .done T r) :
    T.machine = { S.machine with latch := T.machine.latch, dirty := T.machine.dirty } := by
  rcases Session.move_cases h with ⟨bytes, t, -, hrun, -⟩ | ⟨bytes, -, hrun, -⟩ |
    ⟨t, -, -, ht, -⟩ | ⟨code, pressed, t, -, ht, rfl, -⟩ | ⟨-, rfl, -⟩ | ⟨-, rfl, -⟩ | ⟨t, -, ht, -⟩
  · cases hs.symm.trans hrun
  · cases hs.symm.trans hrun
  · cases (haltedMachineHasNoStep _ _ _ hs).symm.trans ht
  · obtain ⟨hc, rfl⟩ := State.setKey_some ht
    rfl
  · rfl
  · rfl
  · obtain ⟨-, hrun, -⟩ := State.tick_some ht
    cases hs.symm.trans hrun

theorem Session.run_of_halted {S : Session} {kind : ErrorKind} {info : ErrorInfo}
    (hs : S.machine.status = .halted kind info) (moves : List HostMove) :
    (S.run moves).machine =
      { S.machine with latch := (S.run moves).machine.latch, dirty := (S.run moves).machine.dirty } := by
  refine Session.run_induction (P := fun T => T.machine =
    { S.machine with latch := T.machine.latch, dirty := T.machine.dirty }) (fun U T m r hU h => ?_) S moves rfl
  have hUs : U.machine.status = .halted kind info := by rw [hU, hs]
  rw [Session.move_of_halted hUs h, hU]

theorem Session.move_load_of_halted {S : Session} {kind : ErrorKind} {info : ErrorInfo}
    (hs : S.machine.status = .halted kind info) (bytes : List Byte) : S.move (.load bytes) = .noMove .halted := by
  simp only [Session.move, Session.load, hs]

theorem State.tick_of_not_running {s : State} (hs : s.status ≠ .running) : s.tick = none := by
  refine Option.eq_none_iff_forall_ne_some.mpr fun t ht => ?_
  obtain ⟨-, hrun, -⟩ := State.tick_some ht
  exact hs hrun

theorem Session.move_tick_of_halted {S : Session} {kind : ErrorKind} {info : ErrorInfo}
    (hs : S.machine.status = .halted kind info) : S.move .tick = .noMove .halted := by
  have hne : S.machine.status ≠ .running := by rw [hs]; simp
  simp only [Session.move, Session.tick, State.tick_of_not_running hne, if_neg hne]

/-- Settles O53: step, load and tick ask for Running; the other transactions do not, and write LATCH or DIRTY or nothing. -/
theorem haltedIsFinal : Obligations.HaltedIsFinal := by
  intro S kind info hs
  refine ⟨Session.run_of_halted hs, Session.move_step_of_halted hs, Session.move_load_of_halted hs,
    Session.move_tick_of_halted hs, fun code pressed hc => ⟨_, S.move_setKey hc pressed⟩, ⟨_, rfl⟩, ?_⟩
  rw [readStatusChangesNothing S, hs]

/-! ### read_framebuffer and tick -/

/-- Settles O57: read_framebuffer is the two reads and the clear of DIRTY; a tick asks for host_tick and Running, and is one decay. -/
theorem readFramebufferAndTick : Obligations.ReadFramebufferAndTick := by
  refine ⟨fun S => rfl, fun S hp hs => ?_, fun S h => ?_⟩
  · have htick : S.machine.tick = some (S.machine.writeDT (decayed S.machine.dt)) := by
      simp only [State.tick, hp, hs]
    refine ⟨{ S with machine := S.machine.writeDT (decayed S.machine.dt) }, ?_, rfl, decayed_toNat _⟩
    simp only [Session.move, Session.tick, htick]
  · have htick : S.machine.tick = none := by
      refine Option.eq_none_iff_forall_ne_some.mpr fun t ht => ?_
      obtain ⟨hp, hs, -⟩ := State.tick_some ht
      rcases h with hper | hhalted
      · cases hp.symm.trans hper
      · exact hhalted hs
    simp only [Session.move, Session.tick, htick]
    exact ⟨_, rfl⟩

/-! ### create -/

/-- Settles O58: creation takes zeros or the draw for what the source leaves unset, as RESET_FILL says, and one value for the rest. -/
theorem resetValues : Obligations.ResetValues := by
  refine ⟨fun p draw => ⟨fun a => rfl, rfl, rfl, rfl, Framebuffer.pixel_clear, rfl, fun k => ?latch, rfl,
    fun hp => ?zero, fun hp => ?arbitrary, rfl⟩, fun draw => rfl⟩
  case latch => simp [State.create, Latch.empty]
  case zero =>
    have hfill : Fill.select p draw = Fill.zero := by simp only [Fill.select, hp]
    simp [State.create, State.readV, hfill, Fill.zero]
  case arbitrary =>
    have hfill : Fill.select p draw = draw := by simp only [Fill.select, hp]
    simp [State.create, State.readV, hfill]

end Sys2Proof.Machine
end

section

/-! ## The instructions one by one: control flow, arithmetic, keys and timers (41_control_flow.md, 42_alu.md, 44_input_timers.md) -/

namespace Sys2Proof.Machine

/-! ### Skips, jumps and errors -/

/-- The step of an instruction that writes PC alone: PC is the target, and DT decays (R94, R95). -/
theorem exec_of_redirect {i : Instr} {s : State} {a : Word} (h : execute i s = s.redirect a) :
    ∃ t, exec i s = .next t ∧ t = { s with pc := a, dt := t.dt } ∧ t.dt.toNat = dtAfter s.params s.dt := by
  refine ⟨_, exec_of_redirected h, ?_, State.decay_dt_toNat _⟩
  exact State.decay_eq_with_dt _

/-- Settles O18: both are skips, taken on the equality of the two registers as bytes and on its negation. -/
theorem skipsOnTwoRegisters : Obligations.SkipsOnTwoRegisters := by
  intro x y s
  have heq : (s.readV x == s.readV y) = true ↔ (s.readV x).toNat = (s.readV y).toNat :=
    beq_iff_eq.trans BitVec.toNat_inj.symm
  have hne : (s.readV x != s.readV y) = true ↔ (s.readV x).toNat ≠ (s.readV y).toNat :=
    bne_iff_ne.trans BitVec.toNat_inj.symm.not
  exact ⟨finish_skipIf s heq, finish_skipIf s hne⟩

/-- Settles O19: each writes PC alone, Bnnn with a sum that 16 bits hold. -/
theorem jumpsGoToTheirTargets : Obligations.JumpsGoToTheirTargets := by
  intro nnn s
  obtain ⟨t, ht, htEq, htDt⟩ := exec_of_redirect (i := .jp nnn) (s := s) rfl
  obtain ⟨u, hu, huEq, huDt⟩ := exec_of_redirect (i := .jpV0 nnn) (s := s) rfl
  have htPc : t.pc = addrOperand nnn := congrArg State.pc htEq
  have huPc : u.pc = s.offsetTarget nnn := congrArg State.pc huEq
  refine ⟨⟨t, ht, ?_, ?_, htDt⟩, ⟨u, hu, ?_, ?_, huDt⟩⟩
  · rw [htPc]; exact htEq
  · rw [htPc, addrOperand_toNat]
  · rw [huPc]; exact huEq
  · rw [huPc, State.offsetTarget_toNat]

/-- Settles O37: with a key lookup both are skips, taken on what it says. -/
theorem skipsOnAKey : Obligations.SkipsOnAKey := by
  intro x s h
  refine ⟨?_, ?_⟩
  · rw [exec_eq_finish, execute_skp_of_allowed h]
    exact finish_skipIf s Iff.rfl
  · rw [exec_eq_finish, execute_sknp_of_allowed h]
    obtain ⟨t, ht, htEq, htDt⟩ := finish_skipIf s (taken := !s.keyPressed (s.readV x))
      (P := ¬ s.keyPressed (s.readV x) = true) (by simp)
    rw [ite_not] at htEq
    exact ⟨t, ht, htEq, htDt⟩

/-- Settles O38: the lookup is an error, and the recorded address is the code widened to 16 bits. -/
theorem largeKeyCodeHaltsUnderTheFaultPolicy : Obligations.LargeKeyCodeHaltsUnderTheFaultPolicy := by
  intro x s a hp hk ha
  have hcode : (s.readV x).setWidth 16 = a :=
    BitVec.eq_of_toNat_eq ((BitVec.toNat_setWidth_of_le (by decide)).trans ha.symm)
  rw [exec_of_raised (execute_skp_of_fault ⟨hp, hk⟩), exec_of_raised (execute_sknp_of_fault ⟨hp, hk⟩), hcode]
  exact ⟨rfl, rfl⟩

/-- Settles O36: the bounds are checked first, and the recorded address is I. -/
theorem drawPastMemoryHalts : Obligations.DrawPastMemoryHalts :=
  fun x y _ _ hn hi => exec_of_raised (execute_drw_of_outOfRange x y ⟨hn, hi⟩)

/-- Settles O42: the recorded word is the instruction's encoding, which is the only word that decodes to it. -/
theorem reservedFx29RaisesUnknownOpcode : Obligations.ReservedFx29RaisesUnknownOpcode := by
  intro x s w hd
  rw [← encode_of_decodeWord hd]
  exact exec_of_raised rfl

/-! ### Calls and returns -/

/-- Settles O20: the push writes the entry at SP, and PC is the target. -/
theorem callPushesTheReturnAddress : Obligations.CallPushesTheReturnAddress := by
  intro nnn s hsp
  refine ⟨_, exec_of_redirected (execute_call_pushes nnn hsp), ?_, ?_, ?_, fun j => ?_, State.decay_dt_toNat _⟩
  · rw [State.decay_stack, State.decay_sp, State.decay_pc]
    exact State.decay_eq_with_dt _
  · rw [State.decay_sp]
  · rw [State.decay_pc, addrOperand_toNat]
  · simp only [State.decay_stack, Fin.getElem_fin, Vector.getElem_set, eq_comm]

/-- Settles O21: a push on a full stack is the error. -/
theorem callOnAFullStackHalts : Obligations.CallOnAFullStackHalts :=
  fun nnn _ hsp => exec_of_raised (execute_call_full nnn hsp)

/-- Settles O22: the pop lowers SP, and PC is the top entry. -/
theorem returnPopsTheTopEntry : Obligations.ReturnPopsTheTopEntry := by
  intro s k hk
  refine ⟨_, exec_of_redirected (execute_ret_pops (by omega)), ?_, ?_, State.decay_dt_toNat _⟩
  · rw [State.decay_sp]
    refine (State.decay_eq_with_dt _).trans ?_
    simp [hk]
  · rw [State.decay_sp]
    simp [hk]

/-- Settles O23: a pop of an empty stack is the error. -/
theorem returnOnAnEmptyStackHalts : Obligations.ReturnOnAnEmptyStackHalts :=
  fun _ hsp => exec_of_raised (execute_ret_empty hsp)

/-- Settles O24: the slot the call wrote is the one the return reads, and SP is back where it was. -/
theorem returnUndoesCall : Obligations.ReturnUndoesCall := by
  intro nnn s t hsp h
  obtain ⟨t', ht', htEq, htSp, -, htStack, -⟩ := callPushesTheReturnAddress nnn s hsp
  cases h.symm.trans ht'
  obtain ⟨u, hu, huEq, huSp, huDt⟩ := returnPopsTheTopEntry t ⟨s.sp.val, hsp⟩ htSp
  have hsame : u.sp = s.sp := Fin.ext huSp
  have htop : t.stack[(⟨s.sp.val, hsp⟩ : Fin 16)] = s.pc + 2#16 := (htStack _).trans (if_pos rfl)
  rw [hsame, htop] at huEq
  have huStack : u.stack = t.stack := by rw [huEq]
  have htParams : t.params = s.params := by rw [htEq]
  refine ⟨u, hu, ?_, fun j hj => ?_, htParams ▸ huDt⟩
  · rw [huEq, htEq]
  · rw [huStack, htStack, if_neg hj]

/-! ### A jump to itself (41_control_flow.md R101) -/

/-- A step of a jump to its own address is one decay (R95, R101). -/
theorem step_selfJump {s : State} {nnn : Addr12} (hs : s.status = .running) (hi : s.nextInstr = some (.jp nnn))
    (hpc : s.pc.toNat = nnn.toNat) : step s = .next s.decay := by
  have htarget : addrOperand nnn = s.pc := BitVec.eq_of_toNat_eq ((addrOperand_toNat nnn).trans hpc.symm)
  have hexec : execute (.jp nnn) s = .completed (s.writePC (addrOperand nnn)) true := rfl
  rw [step_of_nextInstr hs hi, exec_of_redirected hexec, htarget]
  rfl

/-- What DT holds does not show in the fetched instruction. -/
theorem State.nextInstr_decay (s : State) : s.decay.nextInstr = s.nextInstr := by
  rw [s.decay_eq_with_dt]
  rfl

/-- Any number of steps of a jump to its own address leave the machine as it was, but for DT. -/
theorem run_selfJump {s : State} {nnn : Addr12} (hs : s.status = .running) (hi : s.nextInstr = some (.jp nnn))
    (hpc : s.pc.toNat = nnn.toNat) (k : Nat) :
    ∃ t, Sys2Proof.core.run k s = .next t ∧ t = { s with dt := t.dt } ∧
      (s.params.dtDecay = .perStep → t.dt.toNat = s.dt.toNat - k) ∧
      (s.params.dtDecay = .hostTick → t.dt.toNat = s.dt.toNat) := by
  induction k generalizing s with
  | zero => exact ⟨s, rfl, rfl, fun _ => rfl, fun _ => rfl⟩
  | succ k ih =>
    obtain ⟨t, ht, htEq, hper, hhost⟩ := ih (s := s.decay) (s.decay_status.trans hs) (s.nextInstr_decay.trans hi)
      ((congrArg BitVec.toNat s.decay_pc).trans hpc)
    rw [State.decay_params] at hper hhost
    refine ⟨t, ?_, ?_, fun hp => ?_, fun hp => ?_⟩
    · have hrun : Sys2Proof.core.run (k + 1) s = Sys2Proof.core.run k s.decay := by
        simp only [Host.Core.run, show Sys2Proof.core.step s = .next s.decay from step_selfJump hs hi hpc]
      exact hrun.trans ht
    · rw [htEq, s.decay_eq_with_dt]
    · rw [hper hp, s.decay_dt_perStep hp, decayed_toNat]
      omega
    · rw [hhost hp, s.decay_dt_hostTick hp]

/-- Settles O25: each step is one decay, which leaves the jump where it is; by induction on the number of steps. -/
theorem selfJumpRunsForEver : Obligations.SelfJumpRunsForEver := by
  intro s nnn hs hi hpc k
  refine ⟨fun j _ => ?_, ?_⟩
  · obtain ⟨t, ht, htEq, -, -⟩ := run_selfJump hs hi hpc j
    exact ⟨t, ht, by rw [htEq]; exact hs⟩
  · obtain ⟨t, ht, htEq, hper, hhost⟩ := run_selfJump hs hi hpc k
    refine ⟨t, ht, htEq, ?_⟩
    cases hp : s.params.dtDecay with
    | perStep => exact hper hp
    | hostTick => exact hhost hp

/-! ### Arithmetic with a flag (42_alu.md R126 to R132) -/

/-- The step of an instruction that writes general registers alone: they are as the execute phase left them, PC advances and DT decays (R94, R95). -/
theorem exec_of_registers {i : Instr} {s u : State} (h : execute i s = .completed u false)
    (hu : u = { s with v := u.v }) :
    ∃ t, exec i s = .next t ∧ t = { s with v := t.v, pc := s.pc + 2#16, dt := t.dt } ∧
      (∀ z, t.readV z = u.readV z) ∧ t.dt.toNat = dtAfter s.params s.dt := by
  refine ⟨u.advance.decay, exec_of_completed h, ?_, fun z => State.readV_decay _ z, ?_⟩
  · refine (State.decay_eq_with_dt _).trans ?_
    rw [State.decay_v, hu]
    rfl
  · rw [State.decay_dt_toNat, hu]
    rfl

theorem flagByte_toNat (c : Bool) : (flagByte c).toNat = if c then 1 else 0 := by
  cases c <;> rfl

/-- Settles O28: the sum is written first, so the carry stands in VF also where x is VF. -/
theorem addWithCarryOut : Obligations.AddWithCarryOut := by
  intro x y s
  obtain ⟨t, ht, htEq, htV, htDt⟩ := exec_of_registers (i := .addReg x y) (s := s) rfl rfl
  refine ⟨t, ht, htEq, ?_, fun hx => ?_, fun z hz hzF => ?_, htDt⟩
  · rw [htV, State.readV_writeVF, if_pos rfl, carryFlag, flagByte_toNat]
    simp only [decide_eq_true_eq]
  · rw [htV, State.readV_writeVF, if_neg hx, State.readV_writeV_same, BitVec.toNat_add]
  · rw [htV, State.readV_writeVF, if_neg hzF, State.readV_writeV_ne _ _ hz]

/-- The step of an instruction that sets VF by a comparison and then leaves the difference `V[a] - V[b]` in V[x], read after VF was written (R127, R129). -/
theorem exec_of_difference {i : Instr} {s : State} {x a b : Reg}
    (h : execute i s = .completed
      ((s.writeVF (greaterFlag (s.readV a) (s.readV b))).writeV x
        ((s.writeVF (greaterFlag (s.readV a) (s.readV b))).readV a -
          (s.writeVF (greaterFlag (s.readV a) (s.readV b))).readV b)) false) :
    ∃ t, exec i s = .next t ∧ t = { s with v := t.v, pc := s.pc + 2#16, dt := t.dt } ∧
      (∃ f : Nat, f = (if (s.readV b).toNat < (s.readV a).toNat then 1 else 0) ∧
        (x ≠ VF → (t.readV VF).toNat = f) ∧
        (t.readV x).toNat =
          ((if a = VF then f else (s.readV a).toNat) + 256 - (if b = VF then f else (s.readV b).toNat)) % 256) ∧
      (∀ z, z ≠ x → z ≠ VF → t.readV z = s.readV z) ∧ t.dt.toNat = dtAfter s.params s.dt := by
  obtain ⟨t, ht, htEq, htV, htDt⟩ := exec_of_registers h rfl
  have hflag : (greaterFlag (s.readV a) (s.readV b)).toNat = if (s.readV b).toNat < (s.readV a).toNat then 1 else 0 := by
    rw [greaterFlag, flagByte_toNat]
    simp only [decide_eq_true_eq]
  have hread (z : Reg) : ((s.writeVF (greaterFlag (s.readV a) (s.readV b))).readV z).toNat =
      if z = VF then (if (s.readV b).toNat < (s.readV a).toNat then 1 else 0) else (s.readV z).toNat := by
    rw [State.readV_writeVF, apply_ite BitVec.toNat, hflag]
  refine ⟨t, ht, htEq, ⟨_, rfl, fun hx => ?_, ?_⟩, fun z hz hzF => ?_, htDt⟩
  · rw [htV, State.readV_writeV_ne _ _ hx.symm, hread, if_pos rfl]
  · rw [htV, State.readV_writeV_same, BitVec.toNat_sub, ← hread, ← hread]
    omega
  · rw [htV, State.readV_writeV_ne _ _ hz, State.readV_writeVF, if_neg hzF]

/-- Settles O29: both are a comparison and a difference, of V[x] and V[y] and of V[y] and V[x]. -/
theorem subtractWithStrictGreaterFlag : Obligations.SubtractWithStrictGreaterFlag :=
  fun x y _ => ⟨exec_of_difference (a := x) (b := y) rfl, exec_of_difference (a := y) (b := x) rfl⟩

/-- The step of an instruction that puts a flag of V[x] in VF and then replaces V[x], as it is then, by a function of it (R128, R130). -/
theorem exec_of_flag_then_replace {i : Instr} {s : State} {x : Reg} (flag value : Byte → Byte)
    (h : execute i s = .completed
      ((s.writeVF (flag (s.readV x))).writeV x (value ((s.writeVF (flag (s.readV x))).readV x))) false) :
    ∃ t, exec i s = .next t ∧ t = { s with v := t.v, pc := s.pc + 2#16, dt := t.dt } ∧
      (x ≠ VF → t.readV VF = flag (s.readV x) ∧ t.readV x = value (s.readV x)) ∧
      (x = VF → t.readV VF = value (flag (s.readV VF))) ∧
      (∀ z, z ≠ x → z ≠ VF → t.readV z = s.readV z) ∧ t.dt.toNat = dtAfter s.params s.dt := by
  obtain ⟨t, ht, htEq, htV, htDt⟩ := exec_of_registers h rfl
  refine ⟨t, ht, htEq, fun hx => ⟨?_, ?_⟩, fun hx => ?_, fun z hz hzF => ?_, htDt⟩
  · rw [htV, State.readV_writeV_ne _ _ hx.symm, State.readV_writeVF, if_pos rfl]
  · rw [htV, State.readV_writeV_same, State.readV_writeVF, if_neg hx]
  · subst hx
    rw [htV, State.readV_writeV_same, State.readV_writeVF, if_pos rfl]
  · rw [htV, State.readV_writeV_ne _ _ hz, State.readV_writeVF, if_neg hzF]

theorem lowBitFlag_toNat (b : Byte) : (lowBitFlag b).toNat = b.toNat % 2 := by
  rw [lowBitFlag, BitVec.toNat_and]
  exact Nat.and_one_is_mod _

theorem highBitFlag_toNat (b : Byte) : (highBitFlag b).toNat = b.toNat / 128 := by
  rw [highBitFlag, BitVec.toNat_and, BitVec.toNat_ushiftRight, Nat.shiftRight_eq_div_pow]
  refine (Nat.and_one_is_mod _).trans ?_
  omega

theorem shiftRight_one_toNat (b : Byte) : (b >>> 1).toNat = b.toNat / 2 := by
  rw [BitVec.toNat_ushiftRight, Nat.shiftRight_eq_div_pow, pow_one]

theorem shiftLeft_one_toNat (b : Byte) : (b <<< 1).toNat = b.toNat * 2 % 256 := by
  rw [BitVec.toNat_shiftLeft, Nat.shiftLeft_eq, pow_one]

/-- Settles O30: both set VF to the bit shifted out and then shift V[x]; where x is VF, the shift is of the flag. -/
theorem shiftByOneBit : Obligations.ShiftByOneBit := by
  intro x y s
  refine ⟨?right, ?left⟩
  case right =>
    obtain ⟨t, ht, htEq, hx, hF, hz, hdt⟩ :=
      exec_of_flag_then_replace (i := .shr x y) (s := s) lowBitFlag (· >>> 1) rfl
    refine ⟨t, ht, htEq, fun hne => ?_, fun heq => ?_, hz, hdt⟩
    · obtain ⟨hflag, hvalue⟩ := hx hne
      rw [hflag, hvalue, lowBitFlag_toNat, shiftRight_one_toNat]
      exact ⟨rfl, rfl⟩
    · rw [hF heq, shiftRight_one_toNat, lowBitFlag_toNat]
      omega
  case left =>
    obtain ⟨t, ht, htEq, hx, hF, hz, hdt⟩ :=
      exec_of_flag_then_replace (i := .shl x y) (s := s) highBitFlag (· <<< 1) rfl
    refine ⟨t, ht, htEq, fun hne => ?_, fun heq => ?_, hz, hdt⟩
    · obtain ⟨hflag, hvalue⟩ := hx hne
      rw [hflag, hvalue, highBitFlag_toNat, shiftLeft_one_toNat]
      exact ⟨rfl, rfl⟩
    · rw [hF heq, shiftLeft_one_toNat, highBitFlag_toNat]
      omega

/-! ### Free values: Cxkk and Fx0A (42_alu.md R131; 44_input_timers.md R164, R165) -/

/-- The step of an instruction that writes a free value to V[x] and counts the draw. -/
theorem exec_of_writeV_countDraw {i : Instr} {s : State} {x : Reg} {b : Byte}
    (h : execute i s = .completed (s.writeV x b).countDraw false) :
    ∃ t, exec i s = .next t ∧
      t = { s with v := t.v, pc := s.pc + 2#16, dt := t.dt, draws := s.draws + 1 } ∧
      t.readV x = b ∧ (∀ y, y ≠ x → t.readV y = s.readV y) ∧ t.dt.toNat = dtAfter s.params s.dt := by
  refine ⟨_, exec_of_completed h, ?_, ?_, fun y hy => ?_, State.decay_dt_toNat _⟩
  · rw [State.decay_v]
    exact State.decay_eq_with_dt _
  · rw [State.readV_decay, State.readV_advance, State.readV_countDraw, State.readV_writeV_same]
  · rw [State.readV_decay, State.readV_advance, State.readV_countDraw, State.readV_writeV_ne s b hy]

/-- Settles O31: V[x] is the free byte and kk, bit by bit. -/
theorem randomByteIsMasked : Obligations.RandomByteIsMasked := by
  intro x kk s
  obtain ⟨t, ht, htEq, hx, hy, hdt⟩ := exec_of_writeV_countDraw (i := .rnd x kk) (s := s) rfl
  exact ⟨_, t, ht, rfl, htEq, fun j => by rw [hx]; exact BitVec.getLsbD_and, hy, hdt⟩

/-- The step of Fx0A with a key drawn stores its code (R164). -/
theorem exec_ldVxK_of_key (x : Reg) {s : State} {k : Key} (h : s.drawKey = some k) :
    ∃ t, exec (.ldVxK x) s = .next t ∧
      t = { s with v := t.v, pc := s.pc + 2#16, dt := t.dt, draws := s.draws + 1 } ∧
      (t.readV x).toNat = k.val ∧ (∀ y, y ≠ x → t.readV y = s.readV y) ∧ t.dt.toNat = dtAfter s.params s.dt := by
  obtain ⟨t, ht, htEq, hx, hy, hdt⟩ := exec_of_writeV_countDraw (execute_ldVxK_of_key x h)
  refine ⟨t, ht, htEq, ?_, hy, hdt⟩
  rw [hx, BitVec.toNat_ofNat]
  omega

/-- With a key pressed there is a key to draw, and it is a pressed one (R164, R165 (b)). -/
theorem State.exists_drawKey {s : State} {k : Key} (h : s.latch[k] = true) :
    ∃ j, s.drawKey = some j ∧ s.latch[j] = true := by
  cases hd : s.drawKey with
  | none => cases h.symm.trans (s.drawKey_eq_none_iff.mp hd k)
  | some j => exact ⟨j, rfl, State.drawKey_pressed hd⟩

/-- Settles O40: with a key pressed the drawn one is stored; with none pressed there is none to draw. -/
theorem waitForKeyStoresAPressedKey : Obligations.WaitForKeyStoresAPressedKey := by
  refine fun x s => ⟨fun ⟨k, hk⟩ => ?_,
    fun hnone => exec_of_held (execute_ldVxK_held x (s.drawKey_eq_none_iff.mpr hnone))⟩
  obtain ⟨j, hd, hj⟩ := State.exists_drawKey hk
  obtain ⟨t, ht, htEq, hx, hy, hdt⟩ := exec_ldVxK_of_key x hd
  exact ⟨j, t, ht, hj, htEq, hx, hy, hdt⟩

/-- Settles O15: held, the step answers the same state; after set_key the only pressed key is the one that is drawn. -/
theorem heldStepWaitsForAKey : Obligations.HeldStepWaitsForAKey := by
  intro s x code hheld hi hcode
  obtain ⟨hs, -, hlatch⟩ := State.held_iff.mp hheld
  have hstep : step s = .next s := by
    rw [step_of_nextInstr hs hi]
    exact exec_of_held (execute_ldVxK_held x (s.drawKey_eq_none_iff.mpr hlatch))
  have hpressed (k : Key) : (s.latch.setKey ⟨code, hcode⟩ true)[k] = true ↔ k = ⟨code, hcode⟩ := by
    rw [Latch.getElem_setKey]
    simp [hlatch k]
  refine ⟨hstep, s.withLatch (s.latch.setKey ⟨code, hcode⟩ true), ?_⟩
  obtain ⟨j, hd, hj⟩ := State.exists_drawKey (s := s.withLatch (s.latch.setKey ⟨code, hcode⟩ true))
    ((hpressed ⟨code, hcode⟩).mpr rfl)
  cases (hpressed j).mp hj
  obtain ⟨t, ht, htEq, hx, hy, hdt⟩ := exec_ldVxK_of_key x hd
  have hnext : step (s.withLatch (s.latch.setKey ⟨code, hcode⟩ true)) = .next t := by
    rw [← ht]
    exact step_of_nextInstr hs hi
  exact ⟨t, dif_pos hcode, hnext, htEq, hx, hy, hdt⟩

/-! ### The timers and the screen (44_input_timers.md R166, R167; 43_index_display.md R141) -/

/-- Settles O41: each is one write, of DT before the decay and of ST. -/
theorem setTheTimers : Obligations.SetTheTimers := by
  intro x s
  have hdt : execute (.ldDTVx x) s = .completed (s.writeDT (s.readV x)) false := rfl
  have hst : execute (.ldSTVx x) s = .completed (s.writeST (s.readV x)) false := rfl
  refine ⟨⟨_, exec_of_completed hdt, ?_, State.decay_dt_toNat _⟩,
    ⟨_, exec_of_completed hst, ?_, State.decay_dt_toNat _⟩⟩
  · exact State.decay_eq_with_dt _
  · exact State.decay_eq_with_dt _

/-- Settles O33: the execute phase writes the clear framebuffer and DIRTY. -/
theorem clearScreenClearsEveryPixel : Obligations.ClearScreenClearsEveryPixel := by
  intro s
  have hcls : execute .cls s = .completed (s.writeFB Framebuffer.clear).markDirty false := rfl
  refine ⟨_, exec_of_completed hcls, ?_, fun r c => ?_, State.decay_dt_toNat _⟩
  · rw [State.decay_fb]
    exact State.decay_eq_with_dt _
  · rw [State.decay_fb]
    exact Framebuffer.pixel_clear r c

end Sys2Proof.Machine
end

section

/-! ## The collision mark of a sprite (43_index_display.md R142, R145, R147, R149) -/

namespace Sys2Proof.Machine

/-- A loop over 0 .. n−1 whose step `k` flips the bits `p x` that it hits and marks `q` when it hits a set one: where no two steps hit the same bit, `q` is marked exactly when some step hits a bit that was set at the start. -/
theorem foldl_range_marks_iff {δ ι : Type} {f : δ → Nat → δ} {p : ι → δ → Bool} {q : δ → Bool} {hit : ι → Nat → Bool}
    {n : Nat} (hp : ∀ x d k, p x (f d k) = (p x d ^^ hit x k))
    (hq : ∀ d k, q (f d k) = true ↔ q d = true ∨ ∃ x, p x d = true ∧ hit x k = true)
    (honce : ∀ x j k, j < k → k < n → hit x j = true → hit x k = true → False) (d : δ) :
    q ((List.range n).foldl f d) = true ↔ q d = true ∨ ∃ x, p x d = true ∧ (List.range n).any (hit x) = true := by
  induction n with
  | zero => simp
  | succ n ih =>
    have honce' : ∀ x j k, j < k → k < n → hit x j = true → hit x k = true → False :=
      fun x j k hjk hk => honce x j k hjk (by omega)
    have hstill (x : ι) (hx : hit x n = true) : p x ((List.range n).foldl f d) = p x d := by
      have hbefore : (List.range n).any (hit x) = false :=
        List.any_eq_false.mpr fun j hj hhit => honce x j n (List.mem_range.mp hj) (by omega) hhit hx
      rw [foldl_range_xor_any (hp x) (honce' x), hbefore, Bool.xor_false]
    have hlast : (∃ x, p x ((List.range n).foldl f d) = true ∧ hit x n = true) ↔ ∃ x, p x d = true ∧ hit x n = true :=
      exists_congr fun x => and_congr_left fun hx => by rw [hstill x hx]
    simp only [List.range_succ, List.foldl_append, List.foldl_cons, List.foldl_nil, hq, ih honce', hlast, List.any_append,
      List.any_cons, List.any_nil, Bool.or_false, Bool.or_eq_true, and_or_left, exists_or, or_assoc]

/-- One sprite bit marks a collision exactly when it lands on a set pixel (R145). -/
theorem Canvas.coll_drawBit (d : Canvas) (b px py : Byte) (row col : Nat) :
    (if spriteBit b col then d.flip (spriteRow py row) (spriteColumn px col) else d).coll = true ↔
      d.coll = true ∨ ∃ x : Fin 32 × Fin 64, d.fb.pixel x.1 x.2 = true ∧ bitLandsOn b px py row x.1 x.2 col = true := by
  simp only [bitLandsOn_iff, Prod.exists]
  cases spriteBit b col <;> simp [Canvas.flip]

/-- One sprite row marks a collision exactly when one of its set bits lands on a set pixel. -/
theorem Canvas.coll_drawByte (d : Canvas) (b px py : Byte) (row : Nat) :
    (d.drawByte b px (spriteRow py row)).coll = true ↔
      d.coll = true ∨ ∃ x : Fin 32 × Fin 64, d.fb.pixel x.1 x.2 = true ∧ byteLandsOn b px py row x.1 x.2 = true := by
  refine foldl_range_marks_iff (ι := Fin 32 × Fin 64) (p := fun x d => d.fb.pixel x.1 x.2) (q := Canvas.coll)
    (hit := fun x => bitLandsOn b px py row x.1 x.2) (fun x d col => d.pixel_drawBit b px py row col x.1 x.2)
    (fun d col => d.coll_drawBit b px py row col) ?_ d
  intro x j k hjk hk hj hk'
  obtain ⟨-, -, hcj⟩ := bitLandsOn_iff.mp hj
  obtain ⟨-, -, hck⟩ := bitLandsOn_iff.mp hk'
  exact spriteColumn_ne hjk (by omega) (hcj.symm.trans hck)

/-- A sprite of at most 32 rows marks a collision exactly when it covers a set pixel. -/
theorem State.coll_drawSprite (s : State) {n : Nat} (hn : n ≤ 32) (d : Canvas) (px py : Byte) :
    (d.drawSprite s.mem s.i n px py).coll = true ↔
      d.coll = true ∨ ∃ r c, d.fb.pixel r c = true ∧ s.spriteCovers px py n r c = true := by
  simp only [State.spriteCovers_eq_any_byteLandsOn]
  refine (foldl_range_marks_iff (ι := Fin 32 × Fin 64) (p := fun x d => d.fb.pixel x.1 x.2) (q := Canvas.coll)
    (hit := fun x row => byteLandsOn (Memory.read s.mem (s.i.toNat + row)) px py row x.1 x.2)
    (fun x d row => d.pixel_drawByte _ px py row x.1 x.2) (fun d row => d.coll_drawByte _ px py row) ?_ d).trans ?_
  · intro x j k hjk hk hj hk'
    exact spriteRow_ne hjk (by omega) ((byteLandsOn_row hj).symm.trans (byteLandsOn_row hk'))
  · simp only [Prod.exists]

theorem flagByte_eq_one_iff (c : Bool) : flagByte c = 1#8 ↔ c = true := by
  cases c <;> decide

theorem flagByte_zero_or_one (c : Bool) : flagByte c = 0#8 ∨ flagByte c = 1#8 := by
  cases c <;> decide

/-- Settles O35: the mark is set exactly when the sprite covers a set pixel, which is then the one that goes clear; VF takes the mark. -/
theorem drawReportsCollisionAndChangesNothingElse : Obligations.DrawReportsCollisionAndChangesNothingElse := by
  intro x y n s h
  have hn : n.val ≤ 32 := by omega
  have hcoll := s.coll_drawSprite hn ⟨s.fb, false⟩ (s.readV x) (s.readV y)
  have hpixel := s.pixel_drawSprite hn ⟨s.fb, false⟩ (s.readV x) (s.readV y)
  have hcleared : (∃ r c, s.fb.pixel r c = true ∧
      (Canvas.drawSprite ⟨s.fb, false⟩ s.mem s.i n (s.readV x) (s.readV y)).fb.pixel r c = false) ↔
      ∃ r c, s.fb.pixel r c = true ∧ s.spriteCovers (s.readV x) (s.readV y) n r c = true :=
    exists_congr fun r => exists_congr fun c => and_congr_right fun hset => by simp [hpixel, hset]
  simp only [Bool.false_eq_true, false_or] at hcoll
  refine ⟨_, exec_of_completed (execute_drw_of_inRange x y h), ?_, ?_, ?_, ?_, fun z hz => ?_, State.decay_dt_toNat _⟩
  · rw [State.decay_v, State.decay_fb]
    exact State.decay_eq_with_dt _
  all_goals simp only [State.readV_decay, State.readV_advance, State.readV_markDirty, State.readV_writeVF, if_true]
  · exact flagByte_zero_or_one _
  · rw [flagByte_eq_one_iff, hcoll, ← hcleared, State.decay_fb]
    rfl
  · rw [flagByte_eq_one_iff, hcoll]
  · rw [if_neg hz, State.readV_writeFB]

end Sys2Proof.Machine
end
